-- ==== Sys2Proof/Word.lean ====
section
/-! DEFINITION. The byte and the 16-bit word of the D740's frames and store pages. -/

namespace Sys2Proof

/-- One character's byte on the line, and one byte of a store page (R155, R177). -/
abbrev Byte := BitVec 8

/-- A check word (R127, R155). -/
abbrev Word16 := BitVec 16

/-- The 62 content bytes of a store page (R155); the length is an invariant of the store. -/
abbrev Content := List Byte

end Sys2Proof
end

