-- ==== Sys2Proof/Config.lean ====
section
/-! DEFINITION. The free values: what the manual leaves open and the part nevertheless decides.
Each is an uninterpreted constant, so a theorem about the model holds whatever it is. -/

namespace Sys2Proof

/-- DESIGN CHOICE (log 1), safe. The order in which the reactions inside one command are taken, where
the manual gives none, is read from a number; the n-th such number is this. -/
opaque Config.freeOrder : Nat → Nat

/-- Free value (log 17), safe. The two bytes ATTR shows for a number of seconds above 65535, which
R179 does not state. -/
opaque Config.freeSeconds : Nat → Word16

/-- Free value (log 18), safe. Byte `i` of the items that CHAN and RFSL mark as absent, whose content R179
does not state, in the n-th such answer. -/
opaque Config.freeAbsent : Nat → Nat → Byte

/-- Free value (log 40), safe. How long, in ms, a line stays in use after the n-th command by traffic that no
command reports: the rest of a frame a port does not follow, or an ack position of two other stations. The
flag says which port, yes for the Field Port. -/
opaque Config.freeTraffic : Nat → Bool → Nat

/-- Free value (log 56), safe. How long, in ms, the part waits within its ack position before its own ack byte, in
the n-th command; only what the ack position leaves of it counts. The flag says which port, yes for the Field Port. -/
opaque Config.freeAnswer : Nat → Bool → Nat

end Sys2Proof
end

