-- ==== Sys2Proof/Syntax.lean ====
section
/-! DEFINITION. The commands of the D740: one constructor per row of spec/opcode_table.json, in the
table's order. No row gives operand bits; the operands are what the rule of the row says the event
carries. -/

namespace Sys2Proof

/-- The two line ports (R125). -/
inductive PortId where
  | upstream
  | field
deriving DecidableEq, Repr

/-- One event or request the part takes, each whole and indivisible (spec/95_what_each_step_holds.md). -/
inductive Instr where
  /-- POWER_UP (R116) -/
  | powerUp
  /-- POWER_LOSS (R166) -/
  | powerLoss
  /-- LOCAL_RESET_PUSH (R119) -/
  | localResetPush
  /-- COMMISSIONING_LINK_CHANGE (R157): whether CLK is fitted afterwards -/
  | commissioningLinkChange (fitted : Bool)
  /-- SAMPLE_FRAME (R5): the port, the header's fields and the payload of a valid SMP -/
  | sampleFrame (port : PortId) (dst src sampleSet : Nat) (payload : List Byte)
  /-- FRESHNESS_EXPIRY (R14): the channel -/
  | freshnessExpiry (channel : Fin 14)
  /-- DEMAND_FRAME (R22): source and payload of a valid DMD to the own station, upstream -/
  | demandFrame (src : Nat) (payload : List Byte)
  /-- DEMAND_TIMER_EXPIRY (R24) -/
  | demandTimerExpiry
  /-- CHEK_MAXIMUM_EXPIRY (R44) -/
  | chekMaximumExpiry
  /-- PREHEAT_TIMER_EXPIRY (R69) -/
  | preheatTimerExpiry
  /-- COND_MAXIMUM_EXPIRY (R76) -/
  | condMaximumExpiry
  /-- PRE_PURGE_EXPIRY (R47) -/
  | prePurgeExpiry
  /-- PURG_MAXIMUM_EXPIRY (R47) -/
  | purgMaximumExpiry
  /-- PROOF_TIMER_EXPIRY (R85) -/
  | proofTimerExpiry
  /-- SAFETY_TIME_EXPIRY (R48) -/
  | safetyTimeExpiry
  /-- WARM_MAXIMUM_EXPIRY (R49) -/
  | warmMaximumExpiry
  /-- LOSS_TIMER_EXPIRY (R87) -/
  | lossTimerExpiry
  /-- STABLE_FIRING_EXPIRY (R50) -/
  | stableFiringExpiry
  /-- POST_MINIMUM_EXPIRY (R56) -/
  | postMinimumExpiry
  /-- POST_MAXIMUM_EXPIRY (R56) -/
  | postMaximumExpiry
  /-- RECYCLE_WAIT_EXPIRY (R57) -/
  | recycleWaitExpiry
  /-- COLD_HOLD_EXPIRY (R78) -/
  | coldHoldExpiry
  /-- RE_PLACE_TIMER_EXPIRY (R37) -/
  | rePlaceTimerExpiry
  /-- PERIOD_TIMER_EXPIRY (R103): the zone, 0 for zone 1 -/
  | periodTimerExpiry (zone : Fin 6)
  /-- ON_TIMER_EXPIRY (R103) -/
  | onTimerExpiry (zone : Fin 6)
  /-- REFRESH_TIMER_EXPIRY (R107) -/
  | refreshTimerExpiry (zone : Fin 6)
  /-- MINUTE_TIMER_EXPIRY (R117) -/
  | minuteTimerExpiry
  /-- UPSTREAM_COMMAND (R144): header fields and payload of a directed CMD, upstream -/
  | upstreamCommand (dst src : Nat) (payload : List Byte)
  /-- BROADCAST_COMMAND (R146) -/
  | broadcastCommand (src : Nat) (payload : List Byte)
  /-- OWN_COMMAND_FRAME (R142, R143): the port at which the CMD to the own station completes -/
  | ownCommandFrame (port : PortId)
  /-- FIELD_MANAGEMENT_FRAME (R143): source of a DMD or MRQ to the own station, field -/
  | fieldManagementFrame (src : Nat)
  /-- FIELD_FRAME_OTHER (R136) -/
  | fieldFrameOther
  /-- RELAY_DEADLINE_EXPIRY (R150) -/
  | relayDeadlineExpiry
  /-- REPORT_TIMER_EXPIRY (R153) -/
  | reportTimerExpiry
  /-- FRAME_CHECK_FAIL (R127) -/
  | frameCheckFail (port : PortId)
  /-- FRAME_ABANDONED (R126) -/
  | frameAbandoned (port : PortId)
  /-- ARBITER_GRANT (R137) -/
  | arbiterGrant
  /-- UPSTREAM_SEND (R133) -/
  | upstreamSend
  /-- ARBITRATION_LOST (R131) -/
  | arbitrationLost (port : PortId)
  /-- COLLISION (R132) -/
  | collision (port : PortId)
  /-- ACK_BYTE (R128): the character's value and whether its stop bit was recessive, field -/
  | ackByte (value : Byte) (stopGood : Bool)
  /-- ACK_POSITION_END (R130) -/
  | ackPositionEnd
  /-- HOLD_LIMIT_EXPIRY (R130) -/
  | holdLimitExpiry
  /-- FRAME_SENT (R130) -/
  | frameSent (port : PortId)
  /-- LINE_STUCK (R134) -/
  | lineStuck (port : PortId)
  /-- STUCK_END (R134) -/
  | stuckEnd (port : PortId)
  /-- CYCLE_TIMER_EXPIRY (R135) -/
  | cycleTimerExpiry
  /-- FIELD_SILENCE_EXPIRY (R136) -/
  | fieldSilenceExpiry
  /-- STAT (R169) -/
  | stat
  /-- CHAN (R169): the channel byte -/
  | chan (channel : Byte)
  /-- ATTR (R169): the part byte -/
  | attr (part : Byte)
  /-- EVNT (R173): the clear mask -/
  | evnt (mask : BitVec 24)
  /-- AMSK (R174): the new mask -/
  | amsk (mask : BitVec 24)
  /-- OPEN (R170): direction, first page and count bytes -/
  | openTransfer (direction firstPage count : Byte)
  /-- CHNK (R171): chunk index and data bytes -/
  | chnk (index : Byte) (data : List Byte)
  /-- FLSH (R172) -/
  | flsh
  /-- ERAS (R162): the page byte -/
  | eras (page : Byte)
  /-- RLCK (R118) -/
  | rlck
  /-- CLRH (R123) -/
  | clrh
  /-- RFSL (R169) -/
  | rfsl
  /-- SRST (R175) -/
  | srst
  /-- FRST (R176) -/
  | frst
  /-- FULL_RESTART_EFFECT (R176) -/
  | fullRestartEffect
  /-- IDLE_TIMER_EXPIRY (R172) -/
  | idleTimerExpiry
  /-- STORE_PORT_GRANT (R160) -/
  | storePortGrant
  /-- RECORD_WRITE_COMPLETE (R160) -/
  | recordWriteComplete
  /-- MANAGEMENT_WRITE_COMPLETE (R161) -/
  | managementWriteComplete
  /-- ERASE_COMPLETE (R162) -/
  | eraseComplete
  /-- FETCH_READ_COMPLETE (R171) -/
  | fetchReadComplete
  /-- SWEEP_TIMER_EXPIRY (R163) -/
  | sweepTimerExpiry
  /-- CHECK_STEP_COMPLETE (R164) -/
  | checkStepComplete
  /-- REPAIR_WRITE_COMPLETE (R164) -/
  | repairWriteComplete
  /-- OPENER_SEEN (R126) -/
  | openerSeen (port : PortId)
  /-- HOLD_BEGUN (R130) -/
  | holdBegun
  /-- UPSTREAM_FRAME_NO_EFFECT (R142) -/
  | upstreamFrameNoEffect
  /-- MRQ_NOT_MANAGING (R142): the source -/
  | mrqNotManaging (src : Nat)
  /-- MALFORMED_MANAGEMENT_REQUEST (R168) -/
  | malformedManagementRequest
deriving DecidableEq, Repr

end Sys2Proof
end

