-- ==== Sys2Proof/WellFormed.lean ====
section
/-! DEFINITION. Which operands a command can carry: the header values of R126 and R177, and the lengths
R179 gives CHNK. A frame whose header lies outside them is abandoned by its port (R126), and a CHNK of
another length is malformed (R168); the meanings say so, and no command stops the machine. -/

namespace Sys2Proof

/-- A source, and a directed destination: 1 to 47 (R126). -/
def stationOk (n : Nat) : Bool := 1 ≤ n && n ≤ 47

/-- A destination: 0 to 47 (R126). -/
def destinationOk (n : Nat) : Bool := n ≤ 47

/-- A payload of 0 to 20 bytes (R126). -/
def payloadOk (p : List Byte) : Bool := p.length ≤ 20

/-- A sample set, the SMP kind's sub-number: 0 to 15 (R128). -/
def sampleSetOk (n : Nat) : Bool := n ≤ 15

/-- A kind code of 1H to 8H, with a sub-number of 0 on any kind but SMP (R177). -/
def kindOk (kind sub : Nat) : Bool := 1 ≤ kind && kind ≤ 8 && sub ≤ 15 && (sub == 0 || kind == 2)

/-- The header of a frame and its length lie within their values (R126, R177). -/
def headerOk (dst src kind sub length : Nat) : Bool :=
  destinationOk dst && stationOk src && kindOk kind sub && length ≤ 20

/-- The data length of the three well-formed CHNK requests (R179): 0, 14 or 16 bytes. -/
def chunkLengthOk (d : List Byte) : Bool := d.length == 0 || d.length == 14 || d.length == 16

/-- The header and length checks of a command. -/
def Instr.wellFormed : Instr → Bool
  | .sampleFrame _ dst src sampleSet payload =>
      destinationOk dst && stationOk src && sampleSetOk sampleSet && payloadOk payload
  | .demandFrame src payload => stationOk src && payloadOk payload
  | .upstreamCommand dst src payload => stationOk dst && stationOk src && payloadOk payload
  | .broadcastCommand src payload => stationOk src && payloadOk payload
  | .fieldManagementFrame src => stationOk src
  | .mrqNotManaging src => stationOk src
  | .chnk _ data => chunkLengthOk data
  | .powerUp | .powerLoss | .localResetPush | .commissioningLinkChange _ | .freshnessExpiry _
  | .demandTimerExpiry | .chekMaximumExpiry | .preheatTimerExpiry | .condMaximumExpiry
  | .prePurgeExpiry | .purgMaximumExpiry | .proofTimerExpiry | .safetyTimeExpiry
  | .warmMaximumExpiry | .lossTimerExpiry | .stableFiringExpiry | .postMinimumExpiry
  | .postMaximumExpiry | .recycleWaitExpiry | .coldHoldExpiry | .rePlaceTimerExpiry
  | .periodTimerExpiry _ | .onTimerExpiry _ | .refreshTimerExpiry _ | .minuteTimerExpiry
  | .ownCommandFrame _ | .fieldFrameOther | .relayDeadlineExpiry | .reportTimerExpiry
  | .frameCheckFail _ | .frameAbandoned _ | .arbiterGrant | .upstreamSend | .arbitrationLost _
  | .collision _ | .ackByte _ _ | .ackPositionEnd | .holdLimitExpiry | .frameSent _
  | .lineStuck _ | .stuckEnd _ | .cycleTimerExpiry | .fieldSilenceExpiry | .stat | .chan _
  | .attr _ | .evnt _ | .amsk _ | .openTransfer _ _ _ | .flsh | .eras _ | .rlck | .clrh | .rfsl
  | .srst | .frst | .fullRestartEffect | .idleTimerExpiry | .storePortGrant
  | .recordWriteComplete | .managementWriteComplete | .eraseComplete | .fetchReadComplete
  | .sweepTimerExpiry | .checkStepComplete | .repairWriteComplete | .openerSeen _ | .holdBegun
  | .upstreamFrameNoEffect | .malformedManagementRequest => true

end Sys2Proof
end

