-- ==== Sys2Proof/Decode.lean ====
section
/-! DEFINITION. The commands a word spells by the table's bits. No row of spec/opcode_table.json gives
bits ("n_rows_with_fixed": 0 in spec/98_reader.md), so no word spells a command (log 31). -/

namespace Sys2Proof

/-- The command that `nbits` bits of value `w` spell, as spec/opcode_table.json numbers them: none. -/
def decodeTableWord (_nbits _w : Nat) : Option Instr := none

end Sys2Proof
end

