-- ==== Sys2Proof/Machine/Bytes.lean ====
section
/-! DEFINITION. Rounding, clamping, byte order, and the check word. -/

namespace Sys2Proof.Machine

/-- `n` divided by `d` and rounded to the nearest integer, halves away from zero (00_scope.md
"Rounding"; R9, R66, R86). -/
def roundDiv (n : Int) (d : Nat) : Int :=
  let q : Int := ((2 * n.natAbs + d) / (2 * d) : Nat)
  if n < 0 then -q else q

/-- RoundShift(x, s) of 00_scope.md "Rounding" (R11). -/
def roundShift (x : Int) (s : Nat) : Int := roundDiv x (2 ^ s)

/-- "Clamped to [a, b]" (00_scope.md "Intervals"). -/
def clampInt (lo hi x : Int) : Int := if x < lo then lo else if hi < x then hi else x

/-- `clampInt` on naturals. -/
def clampNat (lo hi x : Nat) : Nat := if x < lo then lo else if hi < x then hi else x

/-- `n` limited to the greatest value of a field. -/
def saturate (top n : Nat) : Nat := if top < n then top else n

/-- The byte at offset `i`, 0 beyond the end. -/
def byteAt (c : List Byte) (i : Nat) : Nat := (c.getD i 0).toNat

/-- A two-byte unsigned field, most significant byte first (R177). -/
def u16At (c : List Byte) (i : Nat) : Nat := 256 * byteAt c i + byteAt c (i + 1)

/-- A four-byte unsigned field. -/
def u32At (c : List Byte) (i : Nat) : Nat := 65536 * u16At c i + u16At c (i + 2)

/-- Two's complement reading of a `w`-bit number (R7, R177). -/
def signed (w : Nat) (n : Nat) : Int := if n < 2 ^ (w - 1) then n else (n : Int) - (2 ^ w : Nat)

/-- A two-byte signed field (R177). -/
def s16At (c : List Byte) (i : Nat) : Int := signed 16 (u16At c i)

/-- The low eight bits of a number as a byte. -/
def byteOf (n : Nat) : Byte := BitVec.ofNat 8 n

/-- A number as two bytes, most significant first. -/
def word16 (n : Nat) : List Byte := [byteOf (n / 256), byteOf n]

/-- A number as three bytes, most significant first. -/
def word24 (n : Nat) : List Byte := [byteOf (n / 65536), byteOf (n / 256), byteOf n]

/-- A number as four bytes, most significant first. -/
def word32 (n : Nat) : List Byte := word16 (n / 65536) ++ word16 n

/-- A signed number as two bytes of two's complement. -/
def int16 (x : Int) : List Byte := word16 (x % 65536).toNat

/-- A signed number as three bytes of two's complement. -/
def int24 (x : Int) : List Byte := word24 (x % 16777216).toNat

/-- "0 when absent" of a two-byte signed field (chapter 12). -/
def optInt16 (x : Option Int) : List Byte := int16 (x.getD 0)

/-- A flag as the value of bit `k`. -/
def flag (k : Nat) (b : Bool) : Nat := if b then 2 ^ k else 0

/-- Bit `k` of a number. -/
def bit (n k : Nat) : Bool := n.testBit k

/-- Bits `hi` to `lo` of a number. -/
def bits (n hi lo : Nat) : Nat := n / 2 ^ lo % 2 ^ (hi - lo + 1)

/-- The bytes `d` laid over `c` from offset `at_`. -/
def splice (c : List Byte) (at_ : Nat) (d : List Byte) : List Byte :=
  c.take at_ ++ d ++ c.drop (at_ + d.length)

/-- The `n` bytes of `c` from offset `at_`, 0 beyond the end. -/
def slice (c : List Byte) (at_ n : Nat) : List Byte := (List.range n).map (fun i => c.getD (at_ + i) 0)

/-- All bytes from offset `at_` to the end are 0 (R180). -/
def zeroFrom (c : List Byte) (at_ : Nat) : Bool := (c.drop at_).all (· == 0)

/-- One bit through the remainder register of x16 + x12 + x5 + 1 (R127). -/
def crcBit (r b : Nat) : Nat :=
  if (r / 32768 + b) % 2 = 1 then (2 * r % 65536) ^^^ 0x1021 else 2 * r % 65536

/-- The `n` lowest bits of `x` through the register, least significant first (R127). -/
def crcBits (r x : Nat) : Nat → Nat
  | 0 => r
  | n + 1 => crcBits (crcBit r (x % 2)) (x / 2) n

/-- The check word of a byte string: the register preset to ones, no final inversion (R127). -/
def checkWord (c : List Byte) : Word16 :=
  BitVec.ofNat 16 (c.foldl (fun r x => crcBits r x.toNat 8) 0xFFFF)

end Sys2Proof.Machine
end

