-- ==== Sys2Proof/Machine/Types.lean ====
section
/-! DEFINITION. The named values of the manual and their codes (R33, R126, R177, R178, R179). -/

namespace Sys2Proof.Machine

/-- The twelve supervisor states (R33). -/
inductive SupState where
  | stby | chek | cond | purg | ignt | warm | fire | post | rcyw | cold | lock | flck
deriving DecidableEq, Repr

/-- The code of a supervisor state (R33). -/
def SupState.code : SupState → Nat
  | .stby => 0 | .chek => 1 | .cond => 2 | .purg => 3 | .ignt => 4 | .warm => 5
  | .fire => 6 | .post => 7 | .rcyw => 8 | .cold => 9 | .lock => 10 | .flck => 11

/-- IGNT, WARM and FIRE: the burner may fire and the fuel release is closed (R33, R39). -/
def SupState.fuel : SupState → Bool
  | .ignt | .warm | .fire => true
  | .stby | .chek | .cond | .purg | .post | .rcyw | .cold | .lock | .flck => false

/-- CHEK to POST: an attempt is in progress (R33, R40). -/
def SupState.inAttempt : SupState → Bool
  | .chek | .cond | .purg | .ignt | .warm | .fire | .post => true
  | .stby | .rcyw | .cold | .lock | .flck => false

/-- CHEK to FIRE: the states in which an outcome can be set. -/
def SupState.undecided : SupState → Bool
  | .chek | .cond | .purg | .ignt | .warm | .fire => true
  | .stby | .post | .rcyw | .cold | .lock | .flck => false

/-- STBY, LOCK and FLCK: a safety copy may be installed (R157, R161). -/
def SupState.quiet : SupState → Bool
  | .stby | .lock | .flck => true
  | .chek | .cond | .purg | .ignt | .warm | .fire | .post | .rcyw | .cold => false

/-- The lockout lamp (R34). -/
inductive Lamp where
  | off | steady | flashing
deriving DecidableEq, Repr

/-- LKL by supervisor state (R34). -/
def SupState.lamp : SupState → Lamp
  | .lock => .steady
  | .flck => .flashing
  | .stby | .chek | .cond | .purg | .ignt | .warm | .fire | .post | .rcyw | .cold => .off

/-- Outcome reasons, with Record Lost (R41, R114, R178). -/
inductive Reason where
  | falseFlame | spillage | waterOverheat | ignitionFailed | flameLost | draughtFailed
  | draughtLost | flueNotRising | flueHigh | preheatFailed | burnerNoAnswer | coldOil
  | sensorNotReady | downdraught | checkNotMet | sensorLost | storeFault | factoryFault
  | recordLost
deriving DecidableEq, Repr

/-- Reason codes (R178). -/
def Reason.code : Reason → Nat
  | .falseFlame => 0x01 | .spillage => 0x02 | .waterOverheat => 0x03 | .ignitionFailed => 0x04
  | .flameLost => 0x05 | .draughtFailed => 0x06 | .draughtLost => 0x07 | .flueNotRising => 0x08
  | .flueHigh => 0x09 | .preheatFailed => 0x0A | .burnerNoAnswer => 0x0B | .coldOil => 0x0C
  | .sensorNotReady => 0x0D | .downdraught => 0x0E | .checkNotMet => 0x0F | .sensorLost => 0x10
  | .storeFault => 0x11 | .factoryFault => 0x12 | .recordLost => 0x13

/-- The reason of a code. -/
def Reason.ofCode : Nat → Option Reason
  | 0x01 => some .falseFlame | 0x02 => some .spillage | 0x03 => some .waterOverheat
  | 0x04 => some .ignitionFailed | 0x05 => some .flameLost | 0x06 => some .draughtFailed
  | 0x07 => some .draughtLost | 0x08 => some .flueNotRising | 0x09 => some .flueHigh
  | 0x0A => some .preheatFailed | 0x0B => some .burnerNoAnswer | 0x0C => some .coldOil
  | 0x0D => some .sensorNotReady | 0x0E => some .downdraught | 0x0F => some .checkNotMet
  | 0x10 => some .sensorLost | 0x11 => some .storeFault | 0x12 => some .factoryFault
  | 0x13 => some .recordLost
  | _ => none

/-- The outcome of an attempt (R41). -/
inductive AttemptEnd where
  | normalStop
  | failed (reason : Reason)
  | notCounted (reason : Reason)
  | lockout (reason : Reason)
deriving DecidableEq, Repr

/-- Outcome codes (R178). -/
def AttemptEnd.code : AttemptEnd → Nat
  | .normalStop => 1 | .failed _ => 2 | .notCounted _ => 3 | .lockout _ => 4

/-- Reason code of an outcome (R41, R178). A Normal Stop has no reason, for which R178 gives no code: 0 (log 54). -/
def AttemptEnd.reasonCode : AttemptEnd → Nat
  | .normalStop => 0
  | .failed r | .notCounted r | .lockout r => r.code

/-- The cause of an attempt (R30). -/
inductive Cause where
  | heat | frost
deriving DecidableEq, Repr

/-- The twenty latched events (R173, R178). -/
inductive Event where
  | attemptFailed | lockoutEntered | flameLost | draughtFailed | flueNotRising | spillage
  | waterOverheat | coldHoldEntered | channelFaulted | channelStale | demandStale
  | frostProtectionStarted | relayTimeout | fieldNoAnswer | upstreamDrop | storeFault
  | lineStuck | fieldSilent | resetRefused | pageRejected
deriving DecidableEq, Repr

/-- The bit of an event in the event set (R178). -/
def Event.bit : Event → Nat
  | .attemptFailed => 0 | .lockoutEntered => 1 | .flameLost => 2 | .draughtFailed => 3
  | .flueNotRising => 4 | .spillage => 5 | .waterOverheat => 6 | .coldHoldEntered => 7
  | .channelFaulted => 8 | .channelStale => 9 | .demandStale => 10
  | .frostProtectionStarted => 11 | .relayTimeout => 12 | .fieldNoAnswer => 13
  | .upstreamDrop => 14 | .storeFault => 15 | .lineStuck => 16 | .fieldSilent => 17
  | .resetRefused => 18 | .pageRejected => 19

/-- A set of latched events, bit n for event n (R178). -/
abbrev EventSet := BitVec 20

/-- The set of one event. -/
def Event.only (e : Event) : EventSet := BitVec.ofNat 20 (2 ^ e.bit)

/-- The set of a list of events. -/
def eventsOf (l : List Event) : EventSet := l.foldl (fun m e => m ||| e.only) 0

/-- The alert mask at power-up and Full Restart (R174). -/
def defaultAlertMask : EventSet :=
  eventsOf [.lockoutEntered, .spillage, .waterOverheat, .storeFault, .frostProtectionStarted]

/-- The six ack codes (R128). -/
inductive Ack where
  | ack | ackA | nakB | nakR | nakM | nakT
deriving DecidableEq, Repr

/-- Ack bytes (R177). -/
def Ack.code : Ack → Nat
  | .ack => 0x60 | .ackA => 0x61 | .nakB => 0x70 | .nakR => 0x71 | .nakM => 0x72 | .nakT => 0x73

/-- The code an ack character carries, if it is one of the six (R128, R177). -/
def Ack.ofCode : Nat → Option Ack
  | 0x60 => some .ack | 0x61 => some .ackA | 0x70 => some .nakB | 0x71 => some .nakR
  | 0x72 => some .nakM | 0x73 => some .nakT
  | _ => none

/-- The eight frame kinds (R128). -/
inductive Kind where
  | cmd | smp | mrk | dmd | mrq | mrs | alr | rep
deriving DecidableEq, Repr

/-- Kind codes (R177). -/
def Kind.code : Kind → Nat
  | .cmd => 1 | .smp => 2 | .mrk => 3 | .dmd => 4 | .mrq => 5 | .mrs => 6 | .alr => 7 | .rep => 8

/-- A frame without its check word (R126, R177). -/
structure Frame where
  dst : Nat
  src : Nat
  kind : Kind
  sub : Nat
  payload : List Byte
deriving DecidableEq, Repr

/-- The bytes of a frame on the line: header, payload and check word, high byte first (R127, R177). -/
def Frame.wire (f : Frame) : List Byte :=
  let body := [byteOf f.dst, byteOf f.src, byteOf (16 * f.kind.code + f.sub), byteOf f.payload.length] ++ f.payload
  body ++ word16 (checkWord body).toNat

/-- The kind of a kind code (R177). -/
def Kind.ofCode : Nat → Option Kind
  | 1 => some .cmd | 2 => some .smp | 3 => some .mrk | 4 => some .dmd | 5 => some .mrq | 6 => some .mrs
  | 7 => some .alr | 8 => some .rep
  | _ => none

/-- Whether an ack position follows the frame (R128). -/
def Frame.needsAck (f : Frame) : Bool :=
  f.dst != 0 && (match f.kind with
    | .cmd | .dmd | .mrq => true
    | .smp | .mrk | .mrs | .alr | .rep => false)

/-- Channel states (R2). -/
inductive ChanState where
  | unbound | awaiting | fresh | limited | stale | faulted
deriving DecidableEq, Repr

/-- Channel state codes (R179, CHAN). -/
def ChanState.code : ChanState → Nat
  | .unbound => 0 | .awaiting => 1 | .fresh => 2 | .limited => 3 | .stale => 4 | .faulted => 5

/-- Demand Record states (R21). -/
inductive DemandState where
  | absent | live | stale
deriving DecidableEq, Repr

/-- Demand Record state codes (R179, STAT). -/
def DemandState.code : DemandState → Nat
  | .absent => 0 | .live => 1 | .stale => 2

/-- Zone states; Sensorless with its mode and duty phase (R97). -/
inductive ZoneState where
  | disabled | quiet | accruing | protecting
  | sensorlessHeld
  | sensorlessDuty (on : Bool)
deriving DecidableEq, Repr

/-- Zone state codes (R178). -/
def ZoneState.code : ZoneState → Nat
  | .disabled => 0 | .quiet => 1 | .accruing => 2 | .protecting => 3
  | .sensorlessHeld => 4 | .sensorlessDuty false => 5 | .sensorlessDuty true => 6

/-- A zone that holds its stations is circulating (R97). -/
def ZoneState.holds : ZoneState → Bool
  | .protecting | .sensorlessHeld | .sensorlessDuty true => true
  | .disabled | .quiet | .accruing | .sensorlessDuty false => false

/-- Quiet, Accruing or Protecting: the zone watches its sensor (R98, R101). -/
def ZoneState.sensed : ZoneState → Bool
  | .quiet | .accruing | .protecting => true
  | .disabled | .sensorlessHeld | .sensorlessDuty _ => false

/-- Sensorless in either mode (R97). -/
def ZoneState.sensorless : ZoneState → Bool
  | .sensorlessHeld | .sensorlessDuty _ => true
  | .disabled | .quiet | .accruing | .protecting => false

/-- Segments of the Station Map (R140). -/
inductive Segment where
  | absent | upstream | field | own
deriving DecidableEq, Repr

/-- Why a command was refused (R147). -/
inductive RefusalReason where
  | owned | table | state | frostHold | notManaging
deriving DecidableEq, Repr

/-- Refusal reason codes (R179, RFSL). -/
def RefusalReason.code : RefusalReason → Nat
  | .owned => 1 | .table => 2 | .state => 3 | .frostHold => 4 | .notManaging => 5

/-- Reasons of Rejected (R158, R172, R179). -/
inductive RejectReason where
  | range | order | crossCheck | incomplete
deriving DecidableEq, Repr

/-- Rejection reason codes (chapter 12.3). -/
def RejectReason.code : RejectReason → Nat
  | .range => 1 | .order => 2 | .crossCheck => 3 | .incomplete => 4

/-- The status of a management response, with its reason where it has one (R168, chapter 12.3). -/
inductive Status where
  | done | doneProtected | busy
  | rejected (reason : RejectReason)
  | outOfRange | noTransfer | wrongOrder
  | notLocked
  | resetLimit
deriving DecidableEq, Repr

/-- Status codes (chapter 12.3). -/
def Status.code : Status → Nat
  | .done => 0 | .doneProtected => 1 | .busy => 2 | .rejected _ => 3 | .outOfRange => 4
  | .noTransfer => 5 | .wrongOrder => 6 | .notLocked | .resetLimit => 7

/-- Reason byte of a response: Rejected and Refused have one, 00H otherwise (chapter 12.3). -/
def Status.reasonCode : Status → Nat
  | .rejected r => r.code
  | .notLocked => 1
  | .resetLimit => 2
  | .done | .doneProtected | .busy | .outOfRange | .noTransfer | .wrongOrder => 0

/-- The source of a working copy (R156). -/
inductive CopySource where
  | installer | factory | record
deriving DecidableEq, Repr

end Sys2Proof.Machine
end

