-- ==== Sys2Proof/Machine/Pages.lean ====
section
/-! DEFINITION. The layouts of the store pages (R180 to R182, chapter 12.4 and 12.5): how each block reads
its items from the 62 content bytes of a working copy, and how the Lockout Unit writes its own. -/

namespace Sys2Proof.Machine

/-! ### Page 0, Identity, and page 1, Station Map (R140, R155, R180) -/

/-- The own station of a page 0 content. -/
def ownStationOf (c : Content) : Nat := byteAt c 0

/-- The managing station of a page 0 content. -/
def managingStationOf (c : Content) : Nat := byteAt c 1

/-- The segment of station `n` in a page 1 content; a station outside 1 to 47 is Absent. -/
def segmentOf (c : Content) (n : Nat) : Segment :=
  if 1 ≤ n ∧ n ≤ 47 then
    match bits (byteAt c (n - 1)) 7 4 with
    | 1 => .upstream
    | 2 => .field
    | 3 => .own
    | _ => .absent
  else .absent

/-- The class code of station `n`: 0 Burner, 1 Flue Module, 2 Pump, 3 Zone Valve, 4 Sensor, 5 Room
Unit, 6 Other (R180). -/
def classOf (c : Content) (n : Nat) : Nat := bits (byteAt c (n - 1)) 3 0

/-- Class codes that rules name. -/
def classBurner : Nat := 0
/-- The class code of a pump. -/
def classPump : Nat := 2
/-- The class code of a zone valve. -/
def classValve : Nat := 3
/-- The class of a permit entry that matches every class (R145). -/
def classAll : Nat := 7

/-- The stations 1 to 47. -/
def stations : List Nat := (List.range 47).map (· + 1)

/-- Station `n` is a Field entry of class `k`. -/
def isFieldClass (c : Content) (k n : Nat) : Bool := segmentOf c n == .field && classOf c n == k

/-- The Field entry of class Burner (R140). A map without one is never accepted; 0 then (log 29). -/
def burnerStationOf (c : Content) : Nat := (stations.find? (isFieldClass c classBurner)).getD 0

/-- The three conditions of R140 between a page 0 and a page 1 content. -/
def mapMatches (identity map : Content) : Bool :=
  (stations.filter (fun n => segmentOf map n == .own)) == [ownStationOf identity]
    && (stations.filter (isFieldClass map classBurner)).length == 1
    && segmentOf map (managingStationOf identity) == .upstream

/-! ### Pages 2 to 5, channel bindings (R4, R181, R182) -/

/-- A binding of a channel (R4). -/
structure Binding where
  source : Nat
  mask : Nat
  sampleSet : Nat
  wide : Bool
  isSigned : Bool
  shift : Nat
  offsetByte : Nat
  freshness : Nat
  gain : Int
  offset : Int
  low : Int
  high : Int
  markers : List Int
deriving DecidableEq, Repr

/-- The page that holds the core of a channel's binding (R181). -/
def corePage (k : Nat) : Nat := 2 + k / 4

/-- The offset of a channel's core on its page (R181). -/
def coreOffset (k : Nat) : Nat := 13 * (k % 4)

/-- The page and offset of a channel's two marker words (R181). -/
def markerPlace : Nat → Nat × Nat
  | 0 => (2, 52) | 1 => (2, 56) | 4 => (3, 52) | 5 => (3, 56) | 8 => (4, 52) | 9 => (4, 56)
  | 12 => (5, 26) | 13 => (5, 30) | 2 => (5, 34) | 3 => (5, 38) | 6 => (5, 42) | 7 => (5, 46)
  | 10 => (5, 50) | 11 => (5, 54)
  | _ => (5, 58)

/-- The core and marker bytes of channel `k` where page `p` has content `page p`: 17 bytes. -/
def bindingBytes (page : Nat → Content) (k : Nat) : List Byte :=
  slice (page (corePage k)) (coreOffset k) 13 ++ slice (page (markerPlace k).1) (markerPlace k).2 4

/-- The raw value of a field of one or two bytes, most significant first (R7). -/
def rawOf (wide isSigned : Bool) (n : Nat) : Int :=
  match wide, isSigned with
  | true, true => signed 16 n
  | false, true => signed 8 n
  | _, false => n

/-- A marker word: the raw value extended to 16 bits (R181). -/
def markerOf (isSigned : Bool) (n : Nat) : Int := if isSigned then signed 16 n else n

/-- The binding that 17 bytes spell; a source byte of 0 is Unbound (R181). -/
def decodeBinding (b : List Byte) : Option Binding :=
  if byteAt b 0 = 0 then none
  else
    let f := byteAt b 2
    some
      { source := byteAt b 0, mask := byteAt b 1
        sampleSet := bits f 7 4, wide := bit f 3, isSigned := bit f 2
        shift := bits (byteAt b 3) 7 5, offsetByte := bits (byteAt b 3) 4 0
        freshness := byteAt b 4
        gain := s16At b 5, offset := s16At b 7, low := s16At b 9, high := s16At b 11
        markers := ([u16At b 13, u16At b 15].take (bits f 1 0)).map (markerOf (bit f 2)) }

/-- The channels with a core or marker words on page `p` (R181, R182). -/
def channelsOn (p : Nat) : List (Fin 14) :=
  [(0 : Fin 14), 1, 2, 3, 4, 5, 6, 7, 8, 9, 10, 11, 12, 13].filter
    (fun k => corePage k.val == p || (markerPlace k.val).1 == p)

/-! ### Pages 6 and 7, Permit Table (R145, R180) -/

/-- What a matching permit entry does (R145). -/
inductive PermitAction where
  | pass
  | passIn (states : Nat)
  | clamp (offset low high : Nat)
  | refuse
deriving DecidableEq, Repr

/-- A filled permit entry (R145). -/
structure Permit where
  cls : Nat
  code : Nat
  action : PermitAction
deriving DecidableEq, Repr

/-- The permit entry at byte `i` of a page; an empty entry is none (R180). -/
def permitAt (c : Content) (i : Nat) : Option Permit :=
  let b0 := byteAt c i
  let b2 := byteAt c (i + 2)
  let b3 := byteAt c (i + 3)
  let entry (a : PermitAction) : Option Permit := some { cls := bits b0 7 5, code := byteAt c (i + 1), action := a }
  if bits b0 4 0 ≠ 0 then entry (.clamp (bits b0 4 0) b2 b3)
  else match bits b2 7 4 with
    | 1 => entry .pass
    | 2 => entry (.passIn (256 * bits b2 3 0 + b3))
    | 3 => entry .refuse
    | _ => none

/-- The 30 entries in table order: page 6, then page 7 (R145). -/
def permitsOf (c6 c7 : Content) : List Permit :=
  ((List.range 15).filterMap (fun k => permitAt c6 (4 * k)))
    ++ ((List.range 15).filterMap (fun k => permitAt c7 (4 * k)))

/-! ### Page 8, Schedule (R180) -/

/-- The items of the Schedule page. -/
structure Schedule where
  prePurge : Nat
  purgMax : Nat
  purgeFan : Nat
  ignitionFan : Nat
  safetyTime : Nat
  warmMax : Nat
  requiredRise : Nat
  lowFire : Nat
  highFire : Nat
  postMin : Nat
  postMax : Nat
  recycleWait : Nat
  recycleLimit : Nat
  proofTime : Nat
  lossTime : Nat
  condMax : Nat
  coldHold : Nat
  keepWarm : Bool
deriving DecidableEq, Repr

/-- The Schedule items of a page 8 content (R180). -/
def decodeSchedule (c : Content) : Schedule :=
  { prePurge := byteAt c 0, purgMax := u16At c 1, purgeFan := byteAt c 3, ignitionFan := byteAt c 4
    safetyTime := byteAt c 5, warmMax := u16At c 6, requiredRise := u16At c 8, lowFire := byteAt c 10
    highFire := byteAt c 11, postMin := u16At c 13, postMax := u16At c 15, recycleWait := u16At c 17
    recycleLimit := byteAt c 19, proofTime := byteAt c 20, lossTime := byteAt c 21
    condMax := u16At c 22, coldHold := u16At c 24, keepWarm := byteAt c 26 == 1 }

/-! ### Page 9, Limits (R180) -/

/-- The items of the Limits page. -/
structure Limits where
  waterHigh : Int
  targetMin : Int
  targetMax : Int
  differential : Int
  flueHigh : Int
  flueCool : Int
  spillageRise : Int
  flameOn : Int
  flameOff : Int
  reverseLimit : Int
  oilMinimum : Int
  nozzleReady : Int
  frostStart : Int
  frostStop : Int
  frostWaterMin : Int
deriving DecidableEq, Repr

/-- The Limits items of a page 9 content (R180). -/
def decodeLimits (c : Content) : Limits :=
  { waterHigh := s16At c 0, targetMin := s16At c 2, targetMax := s16At c 4, differential := s16At c 6
    flueHigh := s16At c 8, flueCool := s16At c 10, spillageRise := s16At c 12, flameOn := s16At c 14
    flameOff := s16At c 16, reverseLimit := s16At c 18, oilMinimum := s16At c 20
    nozzleReady := s16At c 22, frostStart := s16At c 24, frostStop := s16At c 26
    frostWaterMin := s16At c 28 }

/-! ### Page 10, curves (R65, R66, R81, R180) -/

/-- A curve point: 12-bit signed x, 12-bit unsigned y (R180). -/
def pointAt (c : Content) (i : Nat) : Int × Int :=
  (signed 12 (16 * byteAt c i + bits (byteAt c (i + 1)) 7 4),
    ((256 * bits (byteAt c (i + 1)) 3 0 + byteAt c (i + 2) : Nat) : Int))

/-- The number of points of the Preheat Curve. -/
def preheatCount (c : Content) : Nat := bits (byteAt c 0) 7 4
/-- The number of points of the Draught Curve. -/
def draughtCount (c : Content) : Nat := bits (byteAt c 0) 3 0

/-- The Preheat Curve of a page 10 content. -/
def preheatCurve (c : Content) : List (Int × Int) :=
  (List.range (preheatCount c)).map (fun k => pointAt c (1 + 3 * k))

/-- The Draught Curve of a page 10 content. -/
def draughtCurve (c : Content) : List (Int × Int) :=
  (List.range (draughtCount c)).map (fun k => pointAt c (25 + 3 * k))

/-- The interpolated case of R66 on one pair of neighbouring points. -/
def interpolate (p q : Int × Int) (x : Int) : Int :=
  p.2 + roundDiv ((x - p.1) * (q.2 - p.2)) (q.1 - p.1).toNat

/-- Evaluation of a curve whose first point is `p` (R66): held flat at both ends. -/
def evalFrom (p : Int × Int) : List (Int × Int) → Int → Int
  | [], _ => p.2
  | q :: rest, x => if x ≤ p.1 then p.2 else if x < q.1 then interpolate p q x else evalFrom q rest x

/-- Evaluation of a curve (R66). A curve has at least two points; 0 for an empty list. -/
def evalCurve : List (Int × Int) → Int → Int
  | [], _ => 0
  | p :: rest, x => evalFrom p rest x

/-! ### Pages 11 to 13, zones and frost settings (R96, R180) -/

/-- A zone's pump or valve: station, on or open code, off or close code (R96). -/
structure ZoneStation where
  station : Nat
  holdCode : Nat
  releaseCode : Nat
deriving DecidableEq, Repr

/-- A zone record (R96). -/
structure ZoneRec where
  enabled : Bool
  threshold : Int
  trigger : Nat
  release : Int
  pump : Option ZoneStation
  valve : Option ZoneStation
deriving DecidableEq, Repr

/-- The page of a zone, 0 for zone 1. -/
def zonePage (z : Nat) : Nat := 11 + z / 3
/-- The offset of a zone's record on its page. -/
def zoneOffset (z : Nat) : Nat := 15 * (z % 3)

/-- The station item of three bytes. -/
def stationAt (c : Content) (i : Nat) : ZoneStation :=
  { station := byteAt c i, holdCode := byteAt c (i + 1), releaseCode := byteAt c (i + 2) }

/-- The zone record at byte `i` of a zone page (R180). -/
def zoneRecAt (c : Content) (i : Nat) : ZoneRec :=
  let f := byteAt c i
  { enabled := bit f 0, threshold := s16At c (i + 1), trigger := u32At c (i + 3), release := s16At c (i + 7)
    pump := if bit f 1 then some (stationAt c (i + 9)) else none
    valve := if bit f 2 then some (stationAt c (i + 12)) else none }

/-- The bytes of a zone's record. -/
def zoneBytes (c : Content) (z : Nat) : List Byte := slice c (zoneOffset z) 15

/-- The frost settings of page 13 (R96). -/
structure FrostSettings where
  onTime : Nat
  period : Nat
  outdoorLimit : Int
deriving DecidableEq, Repr

/-- The frost settings of a page 13 content (R180). -/
def decodeFrost (c : Content) : FrostSettings :=
  { onTime := u16At c 0, period := u16At c 2, outdoorLimit := s16At c 4 }

/-! ### Page 14, lockout record, reset list, next sequence number (R114, R117, R122, R180) -/

/-- The content of page 14. `reason` and `sequence` are absent when the record is not locked, and
`sequence` for Record Lost (R114). -/
structure LockPage where
  locked : Bool
  reason : Option Reason
  sequence : Option Nat
  resets : List Nat
  nextSeq : Nat
deriving DecidableEq, Repr

/-- The page 14 items of a content (R180). -/
def decodeLock (c : Content) : LockPage :=
  let f := byteAt c 0
  { locked := bit f 0
    reason := Reason.ofCode (byteAt c 1)
    sequence := if bit f 1 then some (u16At c 2) else none
    resets := [byteAt c 5, byteAt c 6, byteAt c 7].take (byteAt c 4)
    nextSeq := u16At c 8 }

/-- The page 14 content of its items (R180); absent items are 0 (log 38). -/
def encodeLock (l : LockPage) : Content :=
  [byteOf (flag 0 l.locked + flag 1 l.sequence.isSome),
    byteOf ((l.reason.map Reason.code).getD 0)]
    ++ word16 (l.sequence.getD 0)
    ++ [byteOf l.resets.length, byteOf (l.resets.getD 0 0), byteOf (l.resets.getD 1 0), byteOf (l.resets.getD 2 0)]
    ++ word16 l.nextSeq
    ++ List.replicate 52 0

/-- A page 14 that is not locked, with an empty reset list and next sequence number 0. -/
def LockPage.clear : LockPage :=
  { locked := false, reason := none, sequence := none, resets := [], nextSeq := 0 }

/-- The Record Lost initialisation of page 14 (R116). -/
def LockPage.recordLost : LockPage :=
  { locked := true, reason := some .recordLost, sequence := none, resets := [], nextSeq := 0 }

/-! ### Pages 15 to 18, Attempt History (R121, R180) -/

/-- A summary of an attempt (R41, R121). -/
structure Summary where
  sequence : Nat
  cause : Cause
  furthest : SupState
  outcome : AttemptEnd
  duration : Nat
  outdoor : Option Int
  oilLine : Option Int
deriving DecidableEq, Repr

/-- The page of history slot `k` (R121). -/
def slotPage (k : Nat) : Nat := 15 + k / 4
/-- The offset of history slot `k` on its page (R180). -/
def slotOffset (k : Nat) : Nat := 12 * (k % 4)

/-- The twelve bytes of a summary (R180); absent items are 0 (log 38), and the reason of a Normal Stop (log 54). -/
def encodeSummary (x : Summary) : List Byte :=
  [byteOf (flag 0 true + flag 1 (x.cause == .frost) + flag 2 x.outdoor.isSome + flag 3 x.oilLine.isSome)]
    ++ word16 x.sequence
    ++ [byteOf x.furthest.code, byteOf x.outcome.code, byteOf x.outcome.reasonCode]
    ++ word16 x.duration ++ optInt16 x.outdoor ++ optInt16 x.oilLine

/-- Whether the slot at byte `i` is occupied (R180). -/
def slotOccupied (c : Content) (i : Nat) : Bool := bit (byteAt c i) 0

/-- The sequence number in the slot at byte `i` (R180). -/
def slotSequence (c : Content) (i : Nat) : Nat := u16At c (i + 1)

/-- Sixty-two zero bytes: four empty slots, an empty page buffer. -/
def zeroContent : Content := List.replicate 62 0

end Sys2Proof.Machine
end

