-- ==== Sys2Proof/Machine/Factory.lean ====
section
/-! DEFINITION. The contents of the factory pages 0 to 13: the defaults of R96, R155 and chapter 12.4 where
the spec gives them, and the entries log 6 chooses where it does not. -/

namespace Sys2Proof.Machine

/-- Content padded with zeros to 62 bytes. -/
def padded (l : List Byte) : Content := l ++ List.replicate (62 - l.length) 0

/-- Factory page 0: own station 40, managing station 1 (R155). -/
def factoryIdentity : Content := padded [40, 1]

/-- Factory page 1 (log 6): station 1 Upstream Other, 12 Field Burner, 24 Field Flue Module, 40 Own, the
rest Absent. -/
def factoryMap : Content :=
  padded ([0x16] ++ List.replicate 10 0 ++ [0x20] ++ List.replicate 11 0 ++ [0x21] ++ List.replicate 15 0
    ++ [0x30])

/-- The core bytes of a binding (R181). -/
def coreBytes (source sampleSet : Nat) (wide sgn : Bool) (shift offsetByte fresh : Nat)
    (gain offset low high : Int) : List Byte :=
  [byteOf source, 0, byteOf (16 * sampleSet + flag 3 wide + flag 2 sgn), byteOf (32 * shift + offsetByte), byteOf fresh]
    ++ int16 gain ++ int16 offset ++ int16 low ++ int16 high

/-- Factory page 2 (log 6): flue, draught and diverter from the flue module, flame from the burner. -/
def factoryBindings2 : Content :=
  padded (coreBytes 24 0 true false 2 0 10 640 (-2730) (-500) 4000
    ++ coreBytes 24 0 true true 0 2 3 128 0 (-1000) 1000
    ++ coreBytes 24 0 true true 0 4 10 256 0 (-500) 2000
    ++ coreBytes 12 0 true false 0 0 3 256 0 0 1000)

/-- Factory page 3 (log 6): oil line, nozzle and water from the burner module, outdoor from the flue
module. -/
def factoryBindings3 : Content :=
  padded (coreBytes 12 0 true true 0 2 10 256 0 (-500) 1500
    ++ coreBytes 12 0 true true 0 4 10 256 0 (-500) 2000
    ++ coreBytes 12 0 true true 0 6 10 256 0 (-500) 1500
    ++ coreBytes 24 0 true true 0 6 60 256 0 (-600) 600)

/-- Factory page 8, the defaults of Schedule (R180). -/
def factorySchedule : Content :=
  padded ([30] ++ word16 120 ++ [100, 40, 5] ++ word16 240 ++ word16 250 ++ [30, 100, 0] ++ word16 60
    ++ word16 600 ++ word16 60 ++ [2, 5, 10] ++ word16 900 ++ word16 600 ++ [1])

/-- Factory page 9, the defaults of Limits (R180). -/
def factoryLimits : Content :=
  padded ((([950, 300, 850, 60, 2800, 800, 150, 400, 250, 50, 20, 600, 70, 200, 350] : List Int).map int16).flatten)

/-- A curve point's three bytes (R180). -/
def pointBytes (x : Int) (y : Nat) : List Byte := word24 ((x % 4096).toNat * 4096 + y)

/-- Factory page 10: the factory Preheat Curve and Draught Curve (R65, R81). -/
def factoryCurves : Content :=
  padded ([0x43] ++ pointBytes (-200) 240 ++ pointBytes (-50) 150 ++ pointBytes 50 90 ++ pointBytes 150 45
    ++ List.replicate 12 0 ++ pointBytes (-300) 150 ++ pointBytes 0 100 ++ pointBytes 150 80)

/-- A factory zone record: not enabled, with the defaults of R96. -/
def factoryZone : List Byte := [0] ++ int16 50 ++ word32 180000 ++ int16 80 ++ List.replicate 6 0

/-- Factory pages 11 and 12 (R96). -/
def factoryZones : Content := padded (factoryZone ++ factoryZone ++ factoryZone)

/-- Factory page 13, the defaults of the frost settings (R96). -/
def factoryFrost : Content := padded (word16 300 ++ word16 1800 ++ int16 30)

/-- The contents of the factory pages 0 to 13 (log 6); pages 4 to 7 are Unbound bindings and an empty
Permit Table (section 1.3, R145). -/
def factoryContents : Vector Content 14 :=
  #v[factoryIdentity, factoryMap, factoryBindings2, factoryBindings3, zeroContent, zeroContent, zeroContent,
    zeroContent, factorySchedule, factoryLimits, factoryCurves, factoryZones, factoryZones, factoryFrost]

end Sys2Proof.Machine
end

