-- ==== Sys2Proof/Machine/State.lean ====
section
/-! DEFINITION. The state of the D740 as plain data: every block of 00_scope.md "Blocks" with the items
the rules give it, the store, the command queue, and the machine right after reset. -/

namespace Sys2Proof.Machine

/-! ### Timers and lines -/

/-- A timer: stopped, running toward a powered time in ms, or expired where a rule remembers that it has
expired (preheat, pre-purge and POST minimum: R47, R56, R69). -/
inductive Timer where
  | stopped
  | running (deadline : Nat)
  | expired
deriving DecidableEq, Repr

/-- Line states of a port (R125). While the part's own ack byte is sent a port stays in Receiving or Holding, and it
returns to Idle at the byte's stop bit (R129; log 56). -/
inductive LineState where
  | idle | receiving | transmitting | holding | stuck
deriving DecidableEq, Repr

/-- Where the idle gap of a port stands (R125): the line is in use by a frame or an ack position; another
station keeps it dominant beyond a frame of its own or a hold; the part's own ack byte is being sent, until its stop
bit (R129); the gap runs to a deadline; the gap has elapsed and the line is free. -/
inductive Gap where
  | busy
  | held
  | answering (stopBit : Nat)
  | running (deadline : Nat)
  | elapsed
deriving DecidableEq, Repr

/-- The owner of a frame a port sends (R130). -/
inductive Owner where
  | sequencer | mark | relay | frost | utq
deriving DecidableEq, Repr

/-- A try in progress (R130). `onLine` is no while the frame waits to be sent again after a lost
arbitration (R131); `orphan` is yes when its result is discarded (R38, R137); `hold` runs to the line
hold limit once a hold has begun. -/
structure Try where
  owner : Owner
  frame : Frame
  onLine : Bool
  orphan : Bool
  hold : Timer
deriving DecidableEq, Repr

/-- A line port (R125, R129, R130, R134). `dominant` is the count of dominant time toward 1 s, stopped while no
command has told that the line is dominant (log 41); `answer` is the ack byte given to the last frame that
completed. -/
structure Port where
  line : LineState
  gap : Gap
  dominant : Timer
  answer : Option Ack
  trying : Option Try
deriving DecidableEq, Repr

/-- The cycle timer and index, and the field silence timer (R135, R136). -/
structure Cycle where
  timer : Timer
  index : Nat
  silence : Timer
deriving DecidableEq, Repr

/-! ### Field Transmit Arbiter -/

/-- The Output Set (R35). -/
structure OutputSet where
  fan : Nat
  lineHeater : Bool
  preheater : Bool
  ignition : Bool
  valve : Bool
  rate : Nat
  damper : Bool
deriving DecidableEq, Repr

/-- An Output Set frame: the Burner entry when it was placed (R141), and the set. -/
structure SetFrame where
  dst : Nat
  set : OutputSet
deriving DecidableEq, Repr

/-- The in-flight Output Set frame with its failed tries (R36, R37). -/
structure InFlight where
  frame : SetFrame
  tries : Nat
deriving DecidableEq, Repr

/-- The Relay slot's frame (R137, R146, R148). `late`: its answer has been given at the deadline while
its try was on the line, and it leaves the slot at the try's end (R150). -/
structure SlotFrame where
  frame : Frame
  broadcast : Bool
  late : Bool
deriving DecidableEq, Repr

/-- A frame of the Frost queue: its code, the zone that queued it, whether it goes to the zone's valve
rather than its pump, and whether it is a release (off or close) (R105, R106). -/
structure FrostFrame where
  code : Nat
  zone : Fin 6
  toValve : Bool
  release : Bool
deriving DecidableEq, Repr

/-- An entry of the Frost queue (R105). -/
structure FrostEntry where
  station : Nat
  frame : FrostFrame
  tries : Nat
  inFlight : Bool
  successor : Option FrostFrame
deriving DecidableEq, Repr

/-- The claimants' holdings (R36, R105, R135, R137). -/
structure Arbiter where
  inFlight : Option InFlight
  pending : Option SetFrame
  markWaiting : Option Nat
  markOnLine : Option Nat
  relaySlot : Option SlotFrame
  frostQ : List FrostEntry
deriving DecidableEq, Repr

/-! ### Relay Unit -/

/-- The Relay Record (R148). `onLine` is the phase: no is Waiting, yes is On Line. -/
structure RelayRecord where
  dst : Nat
  frame : Frame
  adjusted : Bool
  tries : Nat
  onLine : Bool
  deadline : Timer
deriving DecidableEq, Repr

/-- An entry of the Upstream Transmit Queue (R151). -/
structure UtqEntry where
  frame : Frame
  onLine : Bool
  renewed : Bool
deriving DecidableEq, Repr

/-- The Last Refusal record (R147). -/
structure LastRefusal where
  origin : Nat
  dst : Nat
  code : Option Nat
  reason : RefusalReason
deriving DecidableEq, Repr

/-- The Relay Unit (R147, R148, R151, R153). -/
structure Relay where
  record : Option RelayRecord
  utq : List UtqEntry
  lastRefusal : Option LastRefusal
  report : Timer
deriving DecidableEq, Repr

/-! ### Channel Unit and Demand Unit -/

/-- The value, filtered value and filter accumulator of a channel, present together (R2). -/
structure Reading where
  v : Int
  f : Int
  acc : Int
deriving DecidableEq, Repr

/-- A channel record (R2). -/
structure Channel where
  state : ChanState
  reading : Option Reading
  count : Nat
  lastTime : Option Nat
  timer : Timer
deriving DecidableEq, Repr

/-- The Demand Record and timer, the heat call and the effective rate (R21, R26, R31). -/
structure Demand where
  state : DemandState
  level : Option Nat
  target : Option Int
  timer : Timer
  heatCall : Bool
  rate : Nat
deriving DecidableEq, Repr

/-! ### Firing Sequencer and Flue Check Unit -/

/-- The Attempt Record (R40). -/
structure Attempt where
  sequence : Nat
  cause : Cause
  phase : SupState
  furthest : SupState
  start : Nat
  phaseEntry : Nat
  outdoor : Option Int
  oilLine : Option Int
  preheat : Option Nat
  suction : Option Int
  diverterBase : Option Int
  proof : Bool
  flueBase : Option Int
  outcome : Option AttemptEnd
deriving DecidableEq, Repr

/-- The timers of the states (section 3.5, R69). -/
structure PhaseTimers where
  chekMax : Timer := .stopped
  condMax : Timer := .stopped
  preheat : Timer := .stopped
  prePurge : Timer := .stopped
  purgMax : Timer := .stopped
  safety : Timer := .stopped
  warmMax : Timer := .stopped
  stable : Timer := .stopped
  postMin : Timer := .stopped
  postMax : Timer := .stopped
  recycle : Timer := .stopped
  coldHold : Timer := .stopped
deriving DecidableEq, Repr

/-- The Firing Sequencer, with the two hard lines FRC and LKL (R33 to R40, R60, R70). -/
structure Sequencer where
  sup : SupState
  current : OutputSet
  heater : Bool
  attempt : Option Attempt
  failCount : Nat
  flameClear : Bool
  timers : PhaseTimers
  rePlace : Timer
  frc : Bool
  lkl : Lamp
deriving DecidableEq, Repr

/-- The spillage watch (R80). -/
inductive Watch where
  | off | armed | ended
deriving DecidableEq, Repr

/-- The Flue Check Unit's own items (R80). `proofTime` and `lossTime` are the durations held for the
attempt, in seconds. -/
structure Flue where
  proof : Timer
  loss : Timer
  watch : Watch
  proofTime : Option Nat
  lossTime : Option Nat
deriving DecidableEq, Repr

/-! ### Frost Watch -/

/-- A release that was not delivered: the station it is owed to and its off or close code (R106, R107). -/
structure OwedRelease where
  station : Nat
  code : Nat
deriving DecidableEq, Repr

/-- A zone's running state (R97). An owed flag that is yes keeps the station it is for (R106, R107; log 25). -/
structure Zone where
  state : ZoneState
  debt : Nat
  lastAccrual : Option Nat
  period : Timer
  on : Timer
  refresh : Timer
  pumpOwed : Option OwedRelease
  valveOwed : Option OwedRelease
deriving DecidableEq, Repr

/-- The Frost Watch (R97, R108, R109). -/
structure Frost where
  zones : Vector Zone 6
  boilerCall : Bool
  zoneCall : Bool
deriving DecidableEq, Repr

/-! ### Table Store -/

/-- A page as stored: content and stored check word (R155). -/
structure Image where
  content : Content
  check : Word16
deriving DecidableEq, Repr

/-- A working copy (R156). -/
structure Copy where
  content : Content
  check : Word16
  source : CopySource
  deferred : Bool
deriving DecidableEq, Repr

/-- Which write of a pair of pages 0 and 1 a management write is (R159). -/
inductive PairPart where
  | single | first | second
deriving DecidableEq, Repr

/-- An operation on the store port (R160). A write holds the content it took at its start; `answers`
says that an RLCK or CLRH waits for writes begun after it (R118, R123). -/
inductive StoreOp where
  | recordWrite (page : Nat) (content : Content) (answers : Bool)
  | check (page : Nat)
  | repair (page : Nat) (content : Content)
  | fetch (page : Nat)
  | write (page : Nat) (content : Content) (part : PairPart)
  | erase (page : Nat)
deriving DecidableEq, Repr

/-- The sweep's pending claim (R160, R163, R164). -/
inductive SweepClaim where
  | check
  | repair
deriving DecidableEq, Repr

/-- The pending management access (R160). -/
inductive MgmtClaim where
  | fetch (page : Nat)
  | write (page : Nat) (part : PairPart)
  | erase (page : Nat)
deriving DecidableEq, Repr

/-- The Table Store (R155 to R164). `stored` holds the installer pages 0 to 13, the record pages 14 to
18 and the fixed pages 19 and 20; `factory` the factory pages 0 to 13. `portTimer` runs for the port time of the
operation in flight (R160). -/
structure Store where
  stored : Vector Image 21
  factory : Vector Image 14
  copies : Vector Copy 21
  op : Option StoreOp
  portTimer : Timer
  pendingRec : List Nat
  sweepClaim : Option SweepClaim
  mgmtClaim : Option MgmtClaim
  sweepPos : Nat
  sweepTimer : Timer
  heldIdentity : Option Content
deriving DecidableEq, Repr

/-! ### Lockout Unit and Management Unit -/

/-- The Lockout Unit's volatile items (R117, R120); the rest is in the copies of pages 14 to 18. -/
structure Lockout where
  factoryFault : Bool
  minute : Timer
deriving DecidableEq, Repr

/-- Mailbox states (R168). -/
inductive Mailbox where
  | empty | executing | answering
deriving DecidableEq, Repr

/-- What an Executing mailbox waits for at the Lockout Unit (R118, R123): a write of page 14, or the
history pages still to be written. -/
inductive Wait where
  | nothing
  | rlck
  | clrh (left : List Nat)
deriving DecidableEq, Repr

/-- Transfer states (R170). -/
inductive Transfer where
  | closed
  | loading (page chunk left : Nat)
  | writing (page left : Nat)
  | fetching (page chunk left : Nat)
deriving DecidableEq, Repr

/-- A restart asked for by command (R175, R176). `softAsked` and `fullAsked`: its response waits to be
sent; `fullArmed`: FRST waits for a quiet store. -/
inductive Restart where
  | nothing | softAsked | fullAsked | fullArmed
deriving DecidableEq, Repr

/-- The Management Unit (R168 to R176). -/
structure Mgmt where
  mailbox : Mailbox
  wait : Wait
  transfer : Transfer
  buffer : Content
  fetchFactory : Bool
  idle : Timer
  events : EventSet
  mask : EventSet
  lastReject : Option RejectReason
  restart : Restart
deriving DecidableEq, Repr

/-! ### The machine -/

/-- The whole state. `now` is powered time in ms. `order` and `freeIndex` are the model's own: where the
free order of a command's reactions is read from (log 1). `pending` is the command queue, oldest
first. -/
structure State where
  now : Nat
  powered : Bool
  link : Bool
  up : Port
  field : Port
  cyc : Cycle
  arb : Arbiter
  relay : Relay
  chans : Vector Channel 14
  demand : Demand
  seq : Sequencer
  flue : Flue
  frost : Frost
  lock : Lockout
  store : Store
  mgmt : Mgmt
  order : Nat
  freeIndex : Nat
  pending : List Instr
deriving DecidableEq, Repr

/-- No command stops the machine: the spec names no event after which the part does not go on. -/
inductive Fault where
deriving DecidableEq, Repr

/-- Why a command has no meaning. -/
inductive Refusal where
  /-- Raised by an arm of Dispatch.lean whose command has no meaning yet; no arm does. Safe: the state
  is left as it was. -/
  | notModelled (mnemonic : String)
deriving DecidableEq, Repr

/-! ### Reset: the part right after power-up as it leaves the factory (log 5, 6) -/

/-- A record with nothing measured, its timer stopped. -/
def Channel.unboundRecord : Channel :=
  { state := .unbound, reading := none, count := 0, lastTime := none, timer := .stopped }

/-- A zone that watches nothing (R97). -/
def Zone.idle : Zone :=
  { state := .disabled, debt := 0, lastAccrual := none, period := .stopped, on := .stopped
    refresh := .stopped, pumpOwed := none, valveOwed := none }

/-- Everything off and the damper closed: the STBY set (R35). -/
def OutputSet.standby : OutputSet :=
  { fan := 0, lineHeater := false, preheater := false, ignition := false, valve := false, rate := 0, damper := false }

/-- A port with nothing on it, its idle gap to be seen until `deadline` (R125). -/
def Port.quietUntil (deadline : Nat) : Port :=
  { line := .idle, gap := .running deadline, dominant := .stopped, answer := none, trying := none }

/-- A valid image of a content. -/
def Image.valid (c : Content) : Image := { content := c, check := checkWord c }

/-- An image whose check word does not agree with its content (R162, R166). -/
def Image.invalid (c : Content) : Image := { content := c, check := ~~~ checkWord c }

/-- The store as shipped: installer pages erased, record and fixed pages valid (log 5, 6). -/
def shippedImages : Vector Image 21 :=
  Vector.ofFn (fun i : Fin 21 =>
    if i.val < 14 then Image.invalid zeroContent
    else if i.val = 14 then Image.valid (encodeLock LockPage.clear)
    else Image.valid zeroContent)

/-- The working copies of a shipped store (R156). -/
def shippedCopies : Vector Copy 21 :=
  Vector.ofFn (fun i : Fin 21 =>
    if h : i.val < 14 then
      { content := factoryContents[i.val], check := checkWord factoryContents[i.val], source := .factory, deferred := false }
    else if i.val = 14 then
      { content := encodeLock LockPage.clear, check := checkWord (encodeLock LockPage.clear), source := .record
        deferred := false }
    else
      { content := zeroContent, check := checkWord zeroContent
        source := if i.val ≤ 18 then .record else .factory, deferred := false })

/-- A bound channel that waits for its first sample (R3). -/
def Channel.awaitingUntil (deadline : Nat) : Channel :=
  { state := .awaiting, reading := none, count := 0, lastTime := none, timer := .running deadline }

/-- The machine right after reset. Powered time is 0; the timers that start at power-up run. -/
def State.reset : State :=
  { now := 0
    powered := true
    link := false
    up := Port.quietUntil 5
    field := Port.quietUntil 5
    cyc := { timer := .running 250, index := 0, silence := .running 5000 }
    arb :=
      { inFlight := none, pending := some { dst := 12, set := OutputSet.standby }, markWaiting := none
        markOnLine := none, relaySlot := none, frostQ := [] }
    relay := { record := none, utq := [], lastRefusal := none, report := .running 2000 }
    chans :=
      #v[Channel.awaitingUntil 10000, Channel.awaitingUntil 3000, Channel.awaitingUntil 10000, Channel.awaitingUntil 3000,
        Channel.awaitingUntil 10000, Channel.awaitingUntil 10000, Channel.awaitingUntil 10000, Channel.awaitingUntil 60000,
        Channel.unboundRecord, Channel.unboundRecord, Channel.unboundRecord, Channel.unboundRecord,
        Channel.unboundRecord, Channel.unboundRecord]
    demand := { state := .absent, level := none, target := none, timer := .stopped, heatCall := false, rate := 30 }
    seq :=
      { sup := .stby, current := OutputSet.standby, heater := false, attempt := none, failCount := 0
        flameClear := false, timers := {}, rePlace := .stopped, frc := false, lkl := .off }
    flue := { proof := .stopped, loss := .stopped, watch := .off, proofTime := none, lossTime := none }
    frost :=
      { zones := #v[Zone.idle, Zone.idle, Zone.idle, Zone.idle, Zone.idle, Zone.idle], boilerCall := false
        zoneCall := false }
    lock := { factoryFault := false, minute := .running 60000 }
    store :=
      { stored := shippedImages, factory := factoryContents.map Image.valid, copies := shippedCopies, op := none
        portTimer := .stopped, pendingRec := [], sweepClaim := none, mgmtClaim := none, sweepPos := 0
        sweepTimer := .running 5000, heldIdentity := none }
    mgmt :=
      { mailbox := .empty, wait := .nothing, transfer := .closed, buffer := zeroContent, fetchFactory := false
        idle := .stopped, events := 0, mask := defaultAlertMask, lastReject := none, restart := .nothing }
    order := 0
    freeIndex := 0
    pending := [] }

end Sys2Proof.Machine
end

