-- ==== Sys2Proof/Machine/Ops.lean ====
section
/-! DEFINITION. Operations every block shares: the free order, timers, the working copies as the blocks
read them, and the record pages as the Lockout Unit changes them. -/

namespace Sys2Proof.Machine

/-! ### The free order (log 1) -/

/-- A choice among `n`, read from the free order; a choice among fewer than two reads nothing. -/
def pick (n : Nat) (s : State) : Nat × State :=
  if n ≤ 1 then (0, s) else (s.order % n, { s with order := s.order / n })

/-- One element of a list, freely chosen. -/
def choose {α : Type} (l : List α) (s : State) : Option α × State := (l[(pick l.length s).1]?, (pick l.length s).2)

/-- Two reactions in a free order. -/
def inEitherOrder (f g : State → State) (s : State) : State :=
  if (pick 2 s).1 = 0 then g (f (pick 2 s).2) else f (g (pick 2 s).2)

/-- A new free order, for the next command. -/
def renewOrder (s : State) : State :=
  { s with order := Config.freeOrder s.freeIndex, freeIndex := s.freeIndex + 1 }

/-! ### Timers -/

/-- A timer started now, in ms. -/
def startMs (s : State) (ms : Nat) : Timer := .running (s.now + ms)

/-- A timer started now, in whole seconds. -/
def startSec (s : State) (sec : Nat) : Timer := startMs s (1000 * sec)

/-- The timer runs. -/
def Timer.isRunning : Timer → Bool
  | .running _ => true
  | .stopped | .expired => false

/-- A timer of `sec` seconds whose expiry is remembered; with 0 it expires at once (R69; log 16). -/
def startRemembered (s : State) (sec : Nat) : Timer := if sec = 0 then .expired else startSec s sec

/-- The time left on a timer, in ms. -/
def Timer.left (t : Timer) (now : Nat) : Nat :=
  match t with
  | .running d => d - now
  | .stopped | .expired => 0

/-- A running timer has reached its deadline. -/
def Timer.due (t : Timer) (now : Nat) : Bool :=
  match t with
  | .running d => d ≤ now
  | .stopped | .expired => false

/-- The meaning of an expiry: `f` at a timer that has reached its deadline; a timer that is stopped, or has been
restarted meanwhile, does not expire (R17, R27; log 3). -/
def whenDue (t : Timer) (f : State → State) (s : State) : State := if t.due s.now then f s else s

/-! ### Stored pages and working copies (R155, R156) -/

/-- An image is valid when its check word is that of its content (R155). -/
def Image.ok (i : Image) : Bool := i.check == checkWord i.content

/-- A working copy's check word is that of its content. -/
def Copy.ok (c : Copy) : Bool := c.check == checkWord c.content

/-- The stored image of a page. -/
def storedOf (s : State) (p : Nat) : Image := s.store.stored.getD p (Image.invalid zeroContent)

/-- The factory image of a page 0 to 13; the page itself for the others (R155). -/
def factoryOf (s : State) (p : Nat) : Image := if p < 14 then s.store.factory.getD p (Image.invalid zeroContent) else storedOf s p

/-- The working copy of a page. -/
def copyOf (s : State) (p : Nat) : Copy :=
  s.store.copies.getD p { content := zeroContent, check := 0, source := .factory, deferred := false }

/-- The content a block reads on a page. -/
def pageOf (s : State) (p : Nat) : Content := (copyOf s p).content

/-- The store with a stored page set. -/
def setStored (p : Nat) (i : Image) (s : State) : State :=
  { s with store := { s.store with stored := s.store.stored.setIfInBounds p i } }

/-- The store with a working copy set. -/
def setCopy (p : Nat) (c : Copy) (s : State) : State :=
  { s with store := { s.store with copies := s.store.copies.setIfInBounds p c } }

/-- A sound copy of a content (R156). -/
def Copy.sound (c : Content) (source : CopySource) : Copy :=
  { content := c, check := checkWord c, source := source, deferred := false }

/-- The Schedule in use. -/
def schedule (s : State) : Schedule := decodeSchedule (pageOf s 8)
/-- The Limits in use. -/
def limits (s : State) : Limits := decodeLimits (pageOf s 9)
/-- The frost settings in use. -/
def frostSettings (s : State) : FrostSettings := decodeFrost (pageOf s 13)
/-- The own station (page 0). -/
def ownStation (s : State) : Nat := ownStationOf (pageOf s 0)
/-- The managing station (page 0). -/
def managingStation (s : State) : Nat := managingStationOf (pageOf s 0)
/-- The Burner entry (page 1). -/
def burnerStation (s : State) : Nat := burnerStationOf (pageOf s 1)
/-- The segment of a station's map entry (page 1). -/
def segment (s : State) (n : Nat) : Segment := segmentOf (pageOf s 1) n
/-- The binding of a channel (pages 2 to 5). -/
def bindingOf (s : State) (k : Fin 14) : Option Binding := decodeBinding (bindingBytes (pageOf s) k.val)
/-- The record of a zone (pages 11 and 12). -/
def zoneRec (s : State) (z : Fin 6) : ZoneRec := zoneRecAt (pageOf s (zonePage z.val)) (zoneOffset z.val)
/-- The items of page 14. -/
def lockPage (s : State) : LockPage := decodeLock (pageOf s 14)

/-! ### Record pages (R115, R121, R160) -/

/-- A page joins the pending set of record writes, which is kept ascending and without duplicates. -/
def insertPage (p : Nat) : List Nat → List Nat
  | [] => [p]
  | q :: rest => if p < q then p :: q :: rest else if p = q then q :: rest else q :: insertPage p rest

/-- A write of a record page is asked for (R115). -/
def askWrite (p : Nat) (s : State) : State :=
  { s with store := { s.store with pendingRec := insertPage p s.store.pendingRec } }

/-- The Lockout Unit changes the copy of a record page: its check word is computed afresh and its write
is asked for (R115, R156). -/
def changeRecord (p : Nat) (c : Content) (s : State) : State := askWrite p (setCopy p (Copy.sound c .record) s)

/-- A change of page 14 (R115). -/
def changeLock (f : LockPage → LockPage) (s : State) : State := changeRecord 14 (encodeLock (f (lockPage s))) s

/-- The occupied history slots with their sequence numbers (R121). -/
def occupiedSlots (s : State) : List (Nat × Nat) :=
  ((List.range 16).filter (fun k => slotOccupied (pageOf s (slotPage k)) (slotOffset k))).map
    (fun k => (k, slotSequence (pageOf s (slotPage k)) (slotOffset k)))

/-- The number of summaries held (STAT). -/
def summariesHeld (s : State) : Nat := (occupiedSlots s).length

/-- The age of a summary, counted back from the next sequence number (R121). -/
def summaryAge (next seq : Nat) : Nat := (next + 65536 - seq) % 65536

/-- The slot of greatest age among occupied slots. -/
def oldestSlot (next : Nat) : List (Nat × Nat) → Nat
  | [] => 0
  | (k, q) :: rest =>
    (rest.foldl (fun best x => if best.2 < summaryAge next x.2 then (x.1, summaryAge next x.2) else best)
      (k, summaryAge next q)).1

/-- Where the next summary goes: the lowest empty slot, else the oldest (R121). -/
def summarySlot (s : State) : Nat :=
  match (List.range 16).find? (fun k => !slotOccupied (pageOf s (slotPage k)) (slotOffset k)) with
  | some k => k
  | none => oldestSlot (lockPage s).nextSeq (occupiedSlots s)

/-- A summary is placed and its page asked to be written (R121). -/
def placeSummary (x : Summary) (s : State) : State :=
  let k := summarySlot s
  changeRecord (slotPage k) (splice (pageOf s (slotPage k)) (slotOffset k) (encodeSummary x)) s

/-- All sixteen slots become empty and pages 15 to 18 are asked to be written (R116, R123). -/
def emptyHistory (s : State) : State :=
  changeRecord 18 zeroContent (changeRecord 17 zeroContent (changeRecord 16 zeroContent (changeRecord 15 zeroContent s)))

/-! ### Channels and calls -/

/-- The record of a channel. -/
def chan (s : State) (k : Fin 14) : Channel := s.chans[k]

/-- Usable: Fresh or Limited (R15). -/
def ChanState.usable : ChanState → Bool
  | .fresh | .limited => true
  | .unbound | .awaiting | .stale | .faulted => false

/-- f of a channel while it is usable, absent otherwise (R15). -/
def usableF (s : State) (k : Fin 14) : Option Int :=
  if (chan s k).state.usable then (chan s k).reading.map (·.f) else none

/-- f of a channel where present, whatever its state (R15, for showing). -/
def shownF (s : State) (k : Fin 14) : Option Int := (chan s k).reading.map (·.f)

/-- Channel numbers by role (R1). -/
def cFlue : Fin 14 := 0
/-- Flue Draught. -/
def cDraught : Fin 14 := 1
/-- Diverter Temperature. -/
def cDiverter : Fin 14 := 2
/-- Flame Signal. -/
def cFlame : Fin 14 := 3
/-- Oil Line Temperature. -/
def cOil : Fin 14 := 4
/-- Nozzle Temperature. -/
def cNozzle : Fin 14 := 5
/-- Boiler Water Temperature. -/
def cWater : Fin 14 := 6
/-- Outdoor Temperature. -/
def cOutdoor : Fin 14 := 7
/-- The channel of a zone (R96). -/
def cZone (z : Fin 6) : Fin 14 := ⟨8 + z.val, by omega⟩

/-- `p` holds of a usable channel's f; an unusable channel meets nothing. -/
def holdsF (s : State) (k : Fin 14) (p : Int → Bool) : Bool :=
  match usableF s k with
  | some f => p f
  | none => false

/-- The channel is usable with an f to act on. -/
def isUsable (s : State) (k : Fin 14) : Bool := (usableF s k).isSome

/-- The request set is not empty (R29). -/
def requests (s : State) : Bool := s.demand.heatCall || s.frost.boilerCall || s.frost.zoneCall

/-! ### Small updates -/

/-- The Sequencer changed. -/
def onSeq (f : Sequencer → Sequencer) (s : State) : State := { s with seq := f s.seq }
/-- The phase timers changed. -/
def onTimers (f : PhaseTimers → PhaseTimers) (s : State) : State :=
  { s with seq := { s.seq with timers := f s.seq.timers } }
/-- The Attempt Record changed where there is one. -/
def onAttempt (f : Attempt → Attempt) (s : State) : State :=
  { s with seq := { s.seq with attempt := s.seq.attempt.map f } }
/-- The Flue Check Unit changed. -/
def onFlue (f : Flue → Flue) (s : State) : State := { s with flue := f s.flue }
/-- The Demand Unit changed. -/
def onDemand (f : Demand → Demand) (s : State) : State := { s with demand := f s.demand }
/-- The arbiter's holdings changed. -/
def onArb (f : Arbiter → Arbiter) (s : State) : State := { s with arb := f s.arb }
/-- The Relay Unit changed. -/
def onRelay (f : Relay → Relay) (s : State) : State := { s with relay := f s.relay }
/-- The Management Unit changed. -/
def onMgmt (f : Mgmt → Mgmt) (s : State) : State := { s with mgmt := f s.mgmt }
/-- The Table Store changed. -/
def onStore (f : Store → Store) (s : State) : State := { s with store := f s.store }
/-- A zone's running state. -/
def zone (s : State) (z : Fin 6) : Zone := s.frost.zones[z]
/-- A zone's running state changed. -/
def onZone (z : Fin 6) (f : Zone → Zone) (s : State) : State :=
  { s with frost := { s.frost with zones := s.frost.zones.set z.val (f (zone s z)) z.isLt } }
/-- A channel's record changed. -/
def setChan (k : Fin 14) (c : Channel) (s : State) : State := { s with chans := s.chans.set k.val c k.isLt }
/-- A port. -/
def port (s : State) : PortId → Port
  | .upstream => s.up
  | .field => s.field
/-- A port changed. -/
def onPort (p : PortId) (f : Port → Port) (s : State) : State :=
  match p with
  | .upstream => { s with up := f s.up }
  | .field => { s with field := f s.field }

end Sys2Proof.Machine
end

