-- ==== Sys2Proof/Machine/Flags.lean ====
section
/-! DEFINITION. The event set with its alerts, the Upstream Transmit Queue they go through, the real-time
conditions, and the coded fields of reports and responses (R151, R173, R174, R178). -/

namespace Sys2Proof.Machine

/-! ### The Upstream Transmit Queue (R151) -/

/-- The queue holds a frame that the new one replaces in place: an SMP of the same source and sample set,
or the one REP, MRS or ALR. -/
def sameUtq (f : Frame) (e : UtqEntry) : Bool :=
  e.frame.kind == f.kind && (f.kind != .smp || (e.frame.src == f.src && e.frame.sub == f.sub))

/-- Replacement in place: a sample keeps its header and takes the new payload (log 14); other frames are
replaced whole. An entry on the line is marked renewed. -/
def replaceUtq (f : Frame) (e : UtqEntry) : UtqEntry :=
  { e with
    frame := if f.kind == .smp then { e.frame with payload := f.payload } else f
    renewed := e.renewed || e.onLine }

/-- The first entry that `p` accepts is replaced. -/
def replaceFirst (p : UtqEntry → Bool) (g : UtqEntry → UtqEntry) : List UtqEntry → List UtqEntry
  | [] => []
  | e :: rest => if p e then g e :: rest else e :: replaceFirst p g rest

/-- An entry that may be removed to make room: an SMP not on the line. -/
def evictable (e : UtqEntry) : Bool := e.frame.kind == .smp && !e.onLine

/-- A frame offered to the queue: the queue after, and whether a sample was evicted (R151). With ten
frames and nothing to evict the frame is dropped; that does not arise (log 13). -/
def offerRaw (q : List UtqEntry) (f : Frame) : List UtqEntry × Bool :=
  let new : UtqEntry := { frame := f, onLine := false, renewed := false }
  if q.any (sameUtq f) then (replaceFirst (sameUtq f) (replaceUtq f) q, false)
  else if q.length < 10 then (q ++ [new], false)
  else if q.any evictable then (q.eraseP evictable ++ [new], true)
  else (q, false)

/-! ### Events and alerts (R173, R174) -/

/-- The ALR as the event set stands: to the managing station, three bytes (R174, R178). -/
def alertFrame (s : State) : Frame :=
  { dst := managingStation s, src := ownStation s, kind := .alr, sub := 0, payload := word24 s.mgmt.events.toNat }

/-- The UTQ replaced. -/
def setUtq (q : List UtqEntry) (s : State) : State := { s with relay := { s.relay with utq := q } }

/-- Events added to the set, without their alert. -/
def addEvents (m : EventSet) (s : State) : State := { s with mgmt := { s.mgmt with events := s.mgmt.events ||| m } }

/-- Whether latching `m` raises an alert: an event of the mask goes from not latched to latched. -/
def raises (m : EventSet) (s : State) : Bool := (m &&& ~~~ s.mgmt.events &&& s.mgmt.mask) != 0

/-- An ALR is offered. Where it evicts a sample, Upstream Drop is latched after it, and the queued alert
is renewed if the mask names Upstream Drop (log 12). -/
def offerAlert (s : State) : State :=
  let r := offerRaw s.relay.utq (alertFrame s)
  let s1 := setUtq r.1 s
  if r.2 then
    let s2 := addEvents (Event.upstreamDrop.only) s1
    if raises (Event.upstreamDrop.only) s1 then setUtq (offerRaw s2.relay.utq (alertFrame s2)).1 s2 else s2
  else s1

/-- A set of events is latched together; one alert if any of them raises one (R173, R174; log 12). -/
def latchSet (m : EventSet) (s : State) : State :=
  if raises m s then offerAlert (addEvents m s) else addEvents m s

/-- Events are latched together. -/
def latch (l : List Event) (s : State) : State := latchSet (eventsOf l) s

/-- A frame other than an alert is offered to the UTQ; an eviction latches Upstream Drop (R151). The frame is
appended before the latching offers an alert of its own, so that where the mask names Upstream Drop and no ALR is
queued, the frame stands before that ALR, which evicts once more (log 12). -/
def offer (f : Frame) (s : State) : State :=
  let r := offerRaw s.relay.utq f
  if r.2 then latch [.upstreamDrop] (setUtq r.1 s) else setUtq r.1 s

/-- Page Rejected is latched with its reason (R157, R172). -/
def rejectPage (r : RejectReason) (s : State) : State :=
  latch [.pageRejected] { s with mgmt := { s.mgmt with lastReject := some r } }

/-! ### Real-time conditions and coded fields (R34, R173, R178) -/

/-- Some zone circulates (R104, R109). -/
def circulating (s : State) : Bool := s.frost.zones.toList.any (fun z => z.state.holds)

/-- The real-time condition byte (R178); its bits without a field are 0 (log 55). -/
def conditions (s : State) : Nat :=
  flag 0 s.seq.frc
    + flag 1 (s.seq.sup == .lock || s.seq.sup == .flck)
    + flag 2 (s.demand.state == .live)
    + flag 3 (circulating s || s.frost.boilerCall || s.frost.zoneCall)
    + flag 4 s.link
    + flag 5 (s.mgmt.transfer != .closed)

/-- The zone states as six nibbles, zone 1 first (R178). -/
def zoneBytesShown (s : State) : List Byte :=
  word24 (s.frost.zones.toList.foldl (fun n z => 16 * n + z.state.code) 0)

/-- The three bytes of the event set (R178). -/
def eventBytes (s : State) : List Byte := word24 s.mgmt.events.toNat

/-- A mask of three bytes; bits 20 to 23 are ignored (R178). -/
def maskOf (m : BitVec 24) : EventSet := m.setWidth 20

/-- The Supervisor Report as the state stands (R153, R178); bits without a field are 0 (log 55). Outside an attempt R178
gives 0 as the phase and does not state the cause bit beside it: the model sends 0 (DESIGN CHOICE, log 62). -/
def reportFrame (s : State) : Frame :=
  let shown := [cFlame, cWater, cFlue, cDraught, cOutdoor].map (shownF s)
  let phase := match s.seq.attempt with
    | some a => a.phase.code + flag 7 (a.cause == .frost)
    | none => 0
  let present := (List.range 5).foldl (fun n i => n + flag (i + 1) ((shown.getD i none).isSome)) 0
  { dst := 0, src := ownStation s, kind := .rep, sub := 0
    payload :=
      [byteOf s.seq.sup.code, byteOf phase, byteOf (flag 0 s.seq.frc + present)]
        ++ (shown.map optInt16).flatten ++ zoneBytesShown s ++ eventBytes s }

end Sys2Proof.Machine
end

