-- ==== Sys2Proof/Machine/Operands.lean ====
section
/-! DEFINITION. How a frame's operands are read: which channels a sample frame matches, its raw value and
the five steps of a sample (R6 to R13), the frames the part composes (R177, R178), and the judgement of an
upstream command's payload (R144 to R146). -/

namespace Sys2Proof.Machine

/-! ### Samples (R6 to R13) -/

/-- The six-bit source test: the stations agree at every position clear in the mask (R6). -/
def sourceMatches (b : Binding) (src : Nat) : Bool := (src ^^^ b.source) &&& (63 ^^^ b.mask) == 0

/-- The width of a binding's field in bytes (R4). -/
def Binding.width (b : Binding) : Nat := if b.wide then 2 else 1

/-- An offered SMP frame matches a bound channel (R6). -/
def frameMatches (b : Binding) (src sampleSet : Nat) (payload : List Byte) : Bool :=
  sourceMatches b src && sampleSet == b.sampleSet && b.offsetByte + b.width ≤ payload.length

/-- The raw value (R7). -/
def rawValue (b : Binding) (payload : List Byte) : Int :=
  rawOf b.wide b.isSigned (if b.wide then u16At payload b.offsetByte else byteAt payload b.offsetByte)

/-- The unclamped value u (R9). -/
def converted (b : Binding) (r : Int) : Int := roundDiv (r * b.gain) 256 + b.offset

/-- The clamped value v (R10). -/
def clamped (b : Binding) (u : Int) : Int := clampInt b.low b.high u

/-- The filter seeded (R11). -/
def seedReading (v : Int) : Reading := { v := v, f := v, acc := 16 * v }

/-- The filter updated (R11). -/
def updateReading (shift : Nat) (old : Reading) (v : Int) : Reading :=
  let acc := old.acc + roundShift (16 * v - old.acc) shift
  { v := v, f := roundDiv acc 16, acc := acc }

/-- The result of a sample at one channel: the record after it, whether the channel entered Faulted,
whether the record changed for its readers (R15), and for an accepted sample whether it seeded. -/
structure Taken where
  chan : Channel
  faulted : Bool
  changed : Bool
  accepted : Option Bool
deriving DecidableEq, Repr

/-- The channel enters Faulted without accepting the sample (R8, R10). -/
def enterFaulted (c : Channel) (count : Nat) : Taken :=
  { chan := { c with state := .faulted, count := count }
    faulted := c.state != .faulted, changed := c.state != .faulted, accepted := none }

/-- A sample accepted in a state before it: the filter of R11 and the freshness timer of R13. -/
def acceptSample (b : Binding) (now : Nat) (c : Channel) (state : ChanState) (count : Nat) (v : Int) : Taken :=
  let reading := match c.reading with
    | some old => if c.state.usable then updateReading b.shift old v else seedReading v
    | none => seedReading v
  { chan :=
      { state := state, reading := some reading, count := count, lastTime := some now
        timer := .running (now + 1000 * b.freshness) }
    faulted := false, changed := true, accepted := some (!c.state.usable) }

/-- One channel takes a sample whole (R8 to R13). -/
def takeSample (b : Binding) (now : Nat) (payload : List Byte) (c : Channel) : Taken :=
  let r := rawValue b payload
  if r ∈ b.markers then enterFaulted c c.count
  else
    let u := converted b r
    if b.low ≤ u ∧ u ≤ b.high then acceptSample b now c .fresh 0 u
    else
      let count := saturate 4 (c.count + 1)
      if count < 4 then acceptSample b now c .limited count (clamped b u) else enterFaulted c count

/-! ### The part's frames (R177, R178) -/

/-- The flags byte of Set Outputs (R178). -/
def OutputSet.flags (o : OutputSet) : Nat :=
  flag 0 o.lineHeater + flag 1 o.preheater + flag 2 o.ignition + flag 3 o.valve + flag 4 o.damper

/-- A Set Outputs frame (R178). -/
def setFrame (s : State) (x : SetFrame) : Frame :=
  { dst := x.dst, src := ownStation s, kind := .cmd, sub := 0
    payload := [0x10, byteOf x.set.fan, byteOf x.set.rate, byteOf x.set.flags] }

/-- A Cycle Mark with the state code as it stands (R135, R178). -/
def markFrame (s : State) (index : Nat) : Frame :=
  { dst := 0, src := ownStation s, kind := .mrk, sub := 0, payload := [byteOf index, byteOf s.seq.sup.code] }

/-- A pump or valve command of the Frost queue (R105, R178). -/
def frostFrame (s : State) (station code : Nat) : Frame :=
  { dst := station, src := ownStation s, kind := .cmd, sub := 0, payload := [byteOf code] }

/-! ### The judgement of a command's code and payload (R144 to R146) -/

/-- What the Permit Table and the steps before it decide. -/
inductive Verdict where
  | malformed
  | refused (reason : RefusalReason)
  | passed (payload : List Byte) (adjusted : Bool)
deriving DecidableEq, Repr

/-- The result of a matching entry (R145). -/
def applyPermit (a : PermitAction) (sup : SupState) (payload : List Byte) : Verdict :=
  match a with
  | .pass => .passed payload false
  | .passIn states => if bit states sup.code then .passed payload false else .refused .state
  | .clamp off lo hi =>
    if payload.length ≤ off then .malformed
    else
      let new := clampNat lo hi (byteAt payload off)
      .passed (payload.set off (byteOf new)) (new != byteAt payload off)
  | .refuse => .refused .table

/-- The first entry that matches a class and a code (R145). An entry of class All or code FFH matches
any; a broadcast has class All (R146). -/
def firstPermit (entries : List Permit) (cls code : Nat) : Option Permit :=
  entries.find? (fun e => (e.cls == classAll || e.cls == cls) && (e.code == 0xFF || e.code == code))

/-- The Permit Table in use (R145). -/
def permits (s : State) : List Permit := permitsOf (pageOf s 6) (pageOf s 7)

/-- The held stations with their codes: the pump and the valve of each zone that holds (R104). -/
def heldStations (s : State) : List ZoneStation :=
  (List.finRange 6).flatMap (fun z =>
    if (zone s z).state.holds then (zoneRec s z).pump.toList ++ (zoneRec s z).valve.toList else [])

/-- The off and close codes of the zones that hold a station (R104, R144). -/
def heldCodes (s : State) (station : Nat) : List Nat :=
  ((heldStations s).filter (·.station == station)).map (·.releaseCode)

/-- The off and close codes of every zone that holds a station (R146). -/
def allHeldCodes (s : State) : List Nat := (heldStations s).map (·.releaseCode)

/-- A directed command to a Field entry (R144, R145). -/
def judgeDirected (s : State) (dst : Nat) (payload : List Byte) : Verdict :=
  match payload with
  | [] => .malformed
  | code :: _ =>
    let burner := isFieldClass (pageOf s 1) classBurner dst
    if code = 0x10 ∧ burner then .refused .owned
    else if code.toNat ∈ heldCodes s dst then .refused .frostHold
    else match firstPermit (permits s) (classOf (pageOf s 1) dst) code.toNat with
      | some e => applyPermit e.action s.seq.sup payload
      | none => if burner then .refused .table else .passed payload false

/-- A broadcast command (R146). -/
def judgeBroadcast (s : State) (payload : List Byte) : Verdict :=
  match payload with
  | [] => .malformed
  | code :: _ =>
    if code = 0x10 then .refused .owned
    else if code.toNat ∈ allHeldCodes s then .refused .frostHold
    else match firstPermit (permits s) classAll code.toNat with
      | some e => applyPermit e.action s.seq.sup payload
      | none => .passed payload false

end Sys2Proof.Machine
end

