-- ==== Sys2Proof/Machine/Sequencer.lean ====
section
/-! DEFINITION. The Firing Sequencer and the Flue Check Unit (R33 to R95): the Output Set, the entry to a
state, the attempt and its outcome, and the passages of each state. -/

namespace Sys2Proof.Machine

/-! ### The Output Set (R35, R36) -/

/-- The set a state calls for (R35). -/
def calledSet (s : State) : OutputSet :=
  let sc := schedule s
  let off : OutputSet := { OutputSet.standby with damper := true }
  match s.seq.sup with
  | .stby => OutputSet.standby
  | .chek => off
  | .cond => { off with lineHeater := s.seq.heater, preheater := true }
  | .purg => { off with fan := sc.purgeFan, lineHeater := s.seq.heater, preheater := true }
  | .ignt =>
    { off with
      fan := sc.ignitionFan, lineHeater := s.seq.heater, preheater := true, ignition := true, valve := true
      rate := sc.lowFire }
  | .warm =>
    { off with fan := sc.lowFire, lineHeater := s.seq.heater, preheater := true, valve := true, rate := sc.lowFire }
  | .fire => { off with fan := s.demand.rate, preheater := sc.keepWarm, valve := true, rate := s.demand.rate }
  | .post => { off with fan := sc.purgeFan }
  | .rcyw | .lock | .flck => off
  | .cold => { off with lineHeater := true }

/-- A set becomes current and the pending frame of the Sequencer slot; the re-place timer stops (R36,
R37, R141). -/
def placeSet (o : OutputSet) (s : State) : State :=
  { s with
    seq := { s.seq with current := o, rePlace := .stopped }
    arb := { s.arb with pending := some { dst := burnerStation s, set := o } } }

/-- The called-for set is placed when it differs from the current one (R35). -/
def refreshSet (s : State) : State := if calledSet s = s.seq.current then s else placeSet (calledSet s) s

/-- A departure from IGNT, WARM or FIRE gives up an in-flight frame with the valve open: its try on the
line runs on without an owner, and a try still to be sent again is not sent (R38). -/
def dropValveOpen (s : State) : State :=
  match s.arb.inFlight with
  | some x =>
    if x.frame.set.valve then
      { s with
        arb := { s.arb with inFlight := none }
        field :=
          { s.field with
            trying := match s.field.trying with
              | some t =>
                if t.owner = .sequencer then (if t.onLine then some { t with orphan := true } else none) else some t
              | none => none } }
    else s
  | none => s

/-! ### Conditioning (R66 to R76) -/

/-- The preheat time at an entry to COND, in seconds (R68). -/
def preheatTime (s : State) : Nat :=
  let curve := preheatCurve (pageOf s 10)
  match usableF s cOil with
  | some f => (evalCurve curve f).toNat
  | none => ((curve.head?.map Prod.snd).getD 0).toNat

/-- The line heater at the entry to COND (R71). -/
def heaterAtCond (s : State) : Bool :=
  if (chan s cOil).state = .unbound then false
  else match usableF s cOil with
    | some f => f < (limits s).oilMinimum
    | none => true

/-- The line heater at a later evaluation in COND to WARM (R71, R72). -/
def heaterNext (s : State) : Bool :=
  if (chan s cOil).state = .unbound then false
  else match usableF s cOil with
    | some f =>
      if f < (limits s).oilMinimum then true
      else if (limits s).oilMinimum + 10 ≤ f then false
      else s.seq.heater
    | none => true

/-- The oil line condition of the COND exit (R45, R75). -/
def oilReady (s : State) : Bool :=
  (chan s cOil).state == .unbound || holdsF s cOil (fun f => (limits s).oilMinimum ≤ f)

/-- The nozzle is ready (R74). -/
def nozzleReady (s : State) : Bool :=
  (chan s cNozzle).state == .unbound || holdsF s cNozzle (fun f => (limits s).nozzleReady ≤ f)

/-! ### Flue checks (R82 to R93) -/

/-- The required suction at an entry to PURG (R82). -/
def requiredSuction (s : State) : Int :=
  let curve := draughtCurve (pageOf s 10)
  match usableF s cOutdoor with
  | some f => evalCurve curve f
  | none => curve.foldl (fun m p => if m < p.2 then p.2 else m) 0

/-- Half the required suction (R86). -/
def halfSuction (a : Attempt) : Int := roundDiv (a.suction.getD 0) 2

/-- The proof condition (R84). -/
def proofHolds (s : State) : Bool :=
  match s.seq.attempt with
  | some a => holdsF s cDraught (fun f => f ≤ -(a.suction.getD 0))
  | none => false

/-- The test of the proof timer (R84). -/
def proofTest (s : State) : State :=
  match s.seq.attempt with
  | some a =>
    if a.proof then s
    else if proofHolds s then
      (if s.flue.proof.isRunning then s
       else onFlue (fun w => { w with proof := startSec s (w.proofTime.getD 0) }) s)
    else onFlue (fun w => { w with proof := .stopped }) s
  | none => s

/-- The loss condition (R86). -/
def lossHolds (s : State) : Bool :=
  match s.seq.attempt with
  | some a => !(holdsF s cDraught (fun f => f ≤ -(halfSuction a)))
  | none => false

/-- The test of the loss timer (R86). -/
def lossTest (s : State) : State :=
  if lossHolds s then
    (if s.flue.loss.isRunning then s else onFlue (fun w => { w with loss := startSec s (w.lossTime.getD 0) }) s)
  else onFlue (fun w => { w with loss := .stopped }) s

/-- Flue f at or above Flue High (R90). -/
def flueIsHigh (s : State) : Bool := holdsF s cFlue (fun f => (limits s).flueHigh ≤ f)

/-- The rise is proven (R89). -/
def riseProven (s : State) : Bool :=
  match s.seq.attempt.bind (·.flueBase) with
  | some b => holdsF s cFlue (fun f => (schedule s).requiredRise ≤ f - b)
  | none => false

/-- The diverter rise reaches the spillage rise with the watch armed (R92). -/
def spills (s : State) : Bool :=
  s.flue.watch == .armed &&
  match s.seq.attempt.bind (·.diverterBase) with
  | some b => holdsF s cDiverter (fun f => (limits s).spillageRise ≤ f - b)
  | none => false

/-! ### Entry to a state -/

/-- The timers a state starts at its entry (section 3.5). -/
def timersAt (st : SupState) (s : State) : PhaseTimers :=
  let sc := schedule s
  match st with
  | .stby | .lock | .flck => {}
  | .chek => { chekMax := startSec s 30 }
  | .cond => { condMax := startSec s sc.condMax, preheat := startRemembered s (preheatTime s) }
  | .purg => { prePurge := startSec s sc.prePurge, purgMax := startSec s sc.purgMax }
  | .ignt => { safety := startSec s sc.safetyTime }
  | .warm => { warmMax := startSec s sc.warmMax }
  | .fire => { stable := startSec s 120 }
  | .post => { postMin := startRemembered s sc.postMin, postMax := startSec s sc.postMax }
  | .rcyw => { recycle := startSec s sc.recycleWait }
  | .cold => { coldHold := startSec s sc.coldHold }

/-- The line heater state of a state (R70, R71). -/
def heaterAt (st : SupState) (s : State) : Bool :=
  match st with
  | .cond => heaterAtCond s
  | .purg | .ignt | .warm => s.seq.heater
  | .cold => true
  | .stby | .chek | .fire | .post | .rcyw | .lock | .flck => false

/-- The Attempt Record at a change of state (R40). -/
def phaseInto (st : SupState) (now : Nat) (a : Attempt) : Attempt :=
  { a with
    phase := st, phaseEntry := now
    furthest := if st ≠ .post ∧ a.furthest.code < st.code then st else a.furthest }

/-- The spillage watch at a change of state: Off at the removal of the Attempt Record (R80), and an armed watch
also once the outcome is set and POST entered (R93; log 39). -/
def watchInto (st : SupState) (w : Watch) : Watch :=
  if st.inAttempt && !(st == .post && w == .armed) then w else .off

/-- The supervisor state moves: FRC, LKL, the state's timers, the line heater and the Attempt Record with
it; the watches of the state left stop (R33, R34, R39, R40, R80, R93). -/
def moveTo (st : SupState) (s0 : State) : State :=
  let s := if s0.seq.sup.fuel && !st.fuel then dropValveOpen s0 else s0
  { s with
    seq :=
      { s.seq with
        sup := st, frc := st.fuel, lkl := st.lamp, flameClear := false, heater := heaterAt st s
        timers := timersAt st s
        attempt := if st.inAttempt then s.seq.attempt.map (phaseInto st s.now) else none }
    flue :=
      { proof := .stopped
        loss := if st = .warm ∨ st = .fire then s.flue.loss else .stopped
        watch := watchInto st s.flue.watch
        proofTime := if st.inAttempt then s.flue.proofTime else none
        lossTime := if st.inAttempt then s.flue.lossTime else none } }

/-- What the entry to COND, PURG and WARM writes into the Attempt Record and the Flue Check Unit (R68,
R82, R84, R86, R88, R92). -/
def entryActions (st : SupState) (s : State) : State :=
  match st with
  | .cond => onAttempt (fun a => { a with preheat := some (preheatTime s) }) s
  | .purg =>
    let base := usableF s cDiverter
    proofTest
      (onFlue
        (fun w =>
          { w with
            watch := if base.isSome then .armed else .ended
            proofTime := some (schedule s).proofTime, lossTime := some (schedule s).lossTime })
        (onAttempt (fun a => { a with suction := some (requiredSuction s), diverterBase := base }) s))
  | .warm => lossTest (onAttempt (fun a => { a with flueBase := usableF s cFlue }) s)
  | .stby | .chek | .ignt | .fire | .post | .rcyw | .cold | .lock | .flck => s

/-- The entry to a state, its set placed (R33, R35). -/
def enterState (st : SupState) (s : State) : State := refreshSet (entryActions st (moveTo st s))

/-! ### The attempt (R30, R40 to R44, R60) -/

/-- The cause of an attempt that begins now (R30). -/
def causeNow (s : State) : Cause := if s.frost.boilerCall || s.frost.zoneCall then .frost else .heat

/-- A new attempt begins in CHEK: the sequence number is taken and advanced (R43, R122). -/
def beginAttempt (s : State) : State :=
  let a : Attempt :=
    { sequence := (lockPage s).nextSeq, cause := causeNow s, phase := .chek, furthest := .chek, start := s.now
      phaseEntry := s.now, outdoor := usableF s cOutdoor, oilLine := usableF s cOil, preheat := none, suction := none
      diverterBase := none, proof := false, flueBase := none, outcome := none }
  let s1 := changeLock (fun l => { l with nextSeq := (l.nextSeq + 1) % 65536 }) s
  enterState .chek
    { s1 with
      seq := { s1.seq with attempt := some a }
      flue := { s1.flue with watch := .off, proofTime := none, lossTime := none } }

/-- Where an outcome leads, by the state in which it is set (R44). -/
def nextAfter (sup : SupState) : AttemptEnd → SupState
  | .normalStop => if sup = .chek ∨ sup = .cond then .stby else .post
  | .failed _ => .post
  | .lockout .factoryFault => .flck
  | .lockout _ => .post
  | .notCounted .coldOil => .cold
  | .notCounted .storeFault => if sup = .chek ∨ sup = .cond then .stby else .post
  | .notCounted .sensorLost => if sup = .cond then .rcyw else .post
  | .notCounted _ => .rcyw

/-- The events a Failed reason latches (R41). -/
def failedEvents : Reason → List Event
  | .flameLost => [.attemptFailed, .flameLost]
  | .draughtFailed | .draughtLost => [.attemptFailed, .draughtFailed]
  | .flueNotRising => [.attemptFailed, .flueNotRising]
  | _ => [.attemptFailed]

/-- The events an outcome latches (R41), before promotion is considered. -/
def outcomeEvents : AttemptEnd → List Event
  | .normalStop => []
  | .failed r => failedEvents r
  | .notCounted .coldOil => [.coldHoldEntered]
  | .notCounted _ => []
  | .lockout .waterOverheat => [.lockoutEntered, .waterOverheat]
  | .lockout _ => [.lockoutEntered]

/-- An outcome as it is set: a Failed outcome that would take the count past the recycle limit becomes
Lockout with the same reason (R60). -/
def promoted (s : State) (o : AttemptEnd) : AttemptEnd :=
  match o with
  | .failed r => if s.seq.failCount + 1 ≤ (schedule s).recycleLimit then .failed r else .lockout r
  | _ => o

/-- The failure count after an outcome as set (R60). -/
def countAfter (s : State) : AttemptEnd → Nat
  | .failed _ => s.seq.failCount + 1
  | _ => s.seq.failCount

/-- The events of an outcome and of its promotion (R41, R60). -/
def eventsAfter (o set : AttemptEnd) : List Event :=
  outcomeEvents o ++ (match o, set with | .failed _, .lockout _ => [.lockoutEntered] | _, _ => [])

/-- The summary of an attempt that ends now (R41). -/
def summaryOf (a : Attempt) (set : AttemptEnd) (now : Nat) : Summary :=
  { sequence := a.sequence, cause := a.cause, furthest := a.furthest, outcome := set
    duration := saturate 65535 ((now - a.start) / 1000), outdoor := a.outdoor, oilLine := a.oilLine }

/-- A lockout decision sets the lockout record (R114). -/
def lockDecision (set : AttemptEnd) (sequence : Nat) (s : State) : State :=
  match set with
  | .lockout r => changeLock (fun l => { l with locked := true, reason := some r, sequence := some sequence }) s
  | _ => s

/-- The outcome of the attempt is decided: the summary is handed over, the lockout record set, the events
latched, and the state moves (R41). An outcome already set stays (R41, R62). -/
def decide (o : AttemptEnd) (s : State) : State :=
  match s.seq.attempt with
  | none => s
  | some a =>
    if a.outcome.isSome || !s.seq.sup.undecided then s
    else
      let set := promoted s o
      let s1 := onSeq (fun q => { q with failCount := countAfter s set, attempt := some { a with outcome := some set } }) s
      let s2 := latch (eventsAfter o set) (lockDecision set a.sequence (placeSummary (summaryOf a set s.now) s1))
      enterState (nextAfter s.seq.sup set) s2

/-- The end of POST (R56). An attempt without an outcome does not reach it (log 28). -/
def endPost (s : State) : State :=
  match s.seq.attempt.bind (·.outcome) with
  | some .normalStop => if requests s then beginAttempt s else enterState .stby s
  | some (.failed _) | some (.notCounted _) => enterState .rcyw s
  | some (.lockout _) => enterState .lock s
  | none => enterState .stby s

/-! ### Passages (R42 to R59) -/

/-- A passage out of the present state whose condition holds. -/
inductive Passage where
  | begin
  | goto (st : SupState)
  | decide (o : AttemptEnd)
  | spill
  | endPost
deriving DecidableEq, Repr

/-- Water f at or above the Water High Limit (R53). -/
def overheated (s : State) : Bool := holdsF s cWater (fun f => (limits s).waterHigh ≤ f)

/-- Flame f at or above flame-on on a usable channel (R46, R48). -/
def flamePresent (s : State) : Bool := holdsF s cFlame (fun f => (limits s).flameOn ≤ f)

/-- Flame lost: the channel unusable or f below flame-off (R49, R50). -/
def flameLost (s : State) : Bool := !(holdsF s cFlame (fun f => (limits s).flameOff ≤ f))

/-- The passage from CHEK to COND (R43). -/
def chekMet (s : State) : Bool :=
  holdsF s cFlame (fun f => f < (limits s).flameOff)
    && holdsF s cDraught (fun f => f ≤ (limits s).reverseLimit)
    && holdsF s cFlue (fun f => f < (limits s).flueHigh)
    && holdsF s cWater (fun f => f < (limits s).waterHigh)

/-- The passage from COND to PURG (R45, R75). -/
def condMet (s : State) : Bool := s.seq.timers.preheat == .expired && nozzleReady s && oilReady s

/-- The passage from PURG to IGNT (R47). -/
def purgMet (s : State) : Bool :=
  s.seq.timers.prePurge == .expired && (s.seq.attempt.any (·.proof))

/-- The end of POST before its maximum (R56). -/
def postMet (s : State) : Bool :=
  s.seq.timers.postMin == .expired && holdsF s cFlue (fun f => f < (limits s).flueCool)

/-- The passage `p` if `b` holds. -/
def passageIf (b : Bool) (p : Passage) : List Passage := if b then [p] else []

/-- The passages whose conditions hold in the present state (R42 to R59). -/
def passages (s : State) : List Passage :=
  let stop := passageIf (!(requests s)) (.decide .normalStop)
  let hot := passageIf (overheated s) (.decide (.lockout .waterOverheat))
  let waterLost := passageIf (!(isUsable s cWater)) (.decide (.notCounted .sensorLost))
  let spill := passageIf (spills s) .spill
  let high := passageIf (flueIsHigh s) (.decide (.failed .flueHigh))
  let flame := passageIf (flameLost s) (.decide (.failed .flameLost))
  match s.seq.sup with
  | .stby => passageIf (requests s) .begin
  | .chek => stop ++ hot ++ passageIf (chekMet s) (.goto .cond)
  | .cond =>
    stop ++ hot ++ waterLost ++ passageIf (flamePresent s) (.decide (.lockout .falseFlame))
      ++ passageIf (condMet s) (.goto .purg)
  | .purg =>
    stop ++ hot ++ waterLost ++ passageIf (flamePresent s) (.decide (.lockout .falseFlame))
      ++ passageIf (purgMet s) (.goto .ignt)
  | .ignt => stop ++ hot ++ waterLost ++ spill ++ passageIf (flamePresent s) (.goto .warm)
  | .warm => stop ++ hot ++ waterLost ++ spill ++ high ++ flame
  | .fire =>
    stop ++ hot ++ waterLost ++ spill ++ high ++ flame
      ++ passageIf (!(isUsable s cFlue)) (.decide (.notCounted .sensorLost))
  | .post => passageIf (postMet s) .endPost
  | .rcyw | .cold => passageIf (!(requests s)) (.goto .stby)
  | .lock | .flck => []

/-- A passage is taken. Spillage is latched and ends its watch before its verdict is judged (R92). -/
def takePassage (p : Passage) (s : State) : State :=
  match p with
  | .begin => beginAttempt s
  | .goto st => enterState st s
  | .decide o => decide o s
  | .spill => decide (.lockout .spillage) (onFlue (fun w => { w with watch := .ended }) (latch [.spillage] s))
  | .endPost => endPost s

/-- The flame-clear mark of CHEK (R43). -/
def markFlame (s : State) : State :=
  if s.seq.sup = .chek ∧ flameLost s then onSeq (fun q => { q with flameClear := true }) s else s

/-- Passages are taken until none holds (R33); where several hold, in a free order (R62; log 1). The
longest chain of passages at one event is shorter than the count (log 37). -/
def seqLoop : Nat → State → State
  | 0, s => s
  | n + 1, s =>
    match choose (passages (markFlame s)) (markFlame s) with
    | (some p, s1) => seqLoop n (takePassage p s1)
    | (none, s1) => s1

/-- An event at the Sequencer: the conditions of its state are tested (R33). -/
def seqEvent (s : State) : State := seqLoop 12 s

/-- An outcome decided at an event, and the tests of the state it leads to (R33). -/
def decideNow (o : AttemptEnd) (s : State) : State := seqEvent (decide o s)

/-! ### Events of the channels and of the working copies -/

/-- A change of the oil line or of the Limits copy: the line heater is evaluated in COND to WARM, and the
state's conditions are tested (R71, R73, R75). -/
def oilEvent (s : State) : State :=
  match s.seq.sup with
  | .cond | .purg | .ignt | .warm => seqEvent (refreshSet (onSeq (fun q => { q with heater := heaterNext s }) s))
  | .stby | .chek | .fire | .post | .rcyw | .cold | .lock | .flck => seqEvent s

/-- A change of the flue channel at the Flue Check Unit: in WARM the rise is judged, and a flue at Flue
High is no rise (R89, R90). -/
def flueEvent (s : State) : State :=
  if s.seq.sup = .warm ∧ flueIsHigh s = false ∧ riseProven s = true then seqEvent (enterState .fire s) else seqEvent s

/-- A change of the draught channel at the Flue Check Unit (R84, R86). -/
def draughtEvent (s : State) : State :=
  match s.seq.sup with
  | .purg => proofTest s
  | .warm | .fire => lossTest s
  | .stby | .chek | .cond | .ignt | .post | .rcyw | .cold | .lock | .flck => s

/-- A change of the diverter channel: an unusable channel ends an armed watch; otherwise spillage is
judged (R92, R93). -/
def diverterEvent (s : State) : State :=
  match s.seq.sup with
  | .purg | .ignt | .warm | .fire =>
    if s.flue.watch = .armed ∧ isUsable s cDiverter = false then onFlue (fun w => { w with watch := .ended }) s
    else seqEvent s
  | .stby | .chek | .cond | .post | .rcyw | .cold | .lock | .flck => s

/-- Store Fault at the Sequencer (R55). From CHEK and COND the attempt ends to STBY, and where requests are present STBY
passes on at the same event to CHEK, and where R43 holds to COND (R33, R42). A reaction of the same reload that is taken
after it, as a change of the oil line or of Limits, then finds that COND and evaluates the heater there, where R79 has it
find STBY without effect: the model follows R33 and R42 (DEDUCED, log 61). -/
def storeFaultEvent (s : State) : State := decideNow (.notCounted .storeFault) s

/-- The factory fault stands, and the state moves to FLCK where R120 gives. An attempt in progress ends as
Lockout (Factory Fault) and its decision sets the lockout record, also where an RLCK taken just before had
cleared it (R120; the closing sentence of R124 has the record end cleared; log 42). -/
def factoryFaultEvent (s0 : State) : State :=
  let s := { s0 with lock := { s0.lock with factoryFault := true } }
  match s.seq.sup with
  | .stby | .rcyw | .cold | .post => enterState .flck s
  | .chek | .cond | .purg | .ignt | .warm | .fire => decideNow (.lockout .factoryFault) s
  | .lock | .flck => s

/-- LOCK is left at an accepted reset: STBY, or FLCK while the factory fault stands (R64, R118, R119). From LOCK to
FLCK the called-for set is the current one and nothing is placed, as R35 gives for states of the same row; the table
of R64 has the FLCK set placed (log 47). -/
def leaveLock (s : State) : State :=
  seqEvent (enterState (if s.lock.factoryFault then .flck else .stby) (onSeq (fun q => { q with failCount := 0 }) s))

end Sys2Proof.Machine
end

