-- ==== Sys2Proof/Machine/Demand.lean ====
section
/-! DEFINITION. The Demand Unit: the heat call and the effective rate (R21 to R31). -/

namespace Sys2Proof.Machine

/-- The effective level (R21). -/
def effectiveLevel (d : Demand) : Nat := if d.state = .live then d.level.getD 0 else 0

/-- The heat call at an evaluation (R26). -/
def heatNext (s : State) : Bool :=
  if s.demand.state ≠ .live ∨ effectiveLevel s.demand = 0 then false
  else match usableF s cWater, s.demand.target with
    | some f, some target =>
      if target ≤ f then false
      else if f ≤ target - (limits s).differential then true
      else s.demand.heatCall
    | _, _ => false

/-- The effective rate at an evaluation (R31). -/
def rateNext (s : State) : Nat :=
  clampNat (schedule s).lowFire (schedule s).highFire
    (if s.demand.heatCall then effectiveLevel s.demand else (schedule s).lowFire)

/-- The heat call takes its value. -/
def setHeat (s : State) : State := onDemand (fun d => { d with heatCall := heatNext s }) s

/-- The effective rate takes its value. -/
def setRate (s : State) : State := onDemand (fun d => { d with rate := rateNext s }) s

/-- What the Sequencer does at a change of the call or of the rate: in FIRE a new rate is a new set, and
the request set is tested (R29, R31, R35, R51). -/
def afterDemand (before : Demand) (s : State) : State :=
  if s.demand.heatCall = before.heatCall ∧ s.demand.rate = before.rate then s
  else seqEvent (if s.seq.sup = .fire then refreshSet s else s)

/-- An evaluation of the heat call, and with it of the effective rate (R26, R31). -/
def demandEvent (s : State) : State := afterDemand s.demand (setRate (setHeat s))

/-- A replacement of the Schedule copy at the Demand Unit (R31). -/
def rateEvent (s : State) : State := afterDemand s.demand (setRate s)

/-- A replacement of the Limits copy at the Demand Unit: a Live or Stale target is clamped again, and the
heat call evaluated (R25). -/
def reclampEvent (s : State) : State :=
  let l := limits s
  demandEvent
    (if s.demand.state = .absent then s
     else onDemand (fun d => { d with target := d.target.map (clampInt l.targetMin l.targetMax) }) s)

/-- The requested level and target of a DMD payload (R23, R178). -/
def requestedLevel (payload : List Byte) : Nat := byteAt payload 0
/-- The requested target, signed (R178). -/
def requestedTarget (payload : List Byte) : Int := s16At payload 1

/-- The target as it is accepted (R23). -/
def acceptedTarget (s : State) (payload : List Byte) : Int :=
  clampInt (limits s).targetMin (limits s).targetMax (requestedTarget payload)

/-- The level as it is accepted (R23). -/
def acceptedLevel (payload : List Byte) : Nat := saturate 100 (requestedLevel payload)

/-- The answer to an accepted DMD: ACK-A when a clamp changed a value (R23). -/
def demandAnswer (s : State) (payload : List Byte) : Ack :=
  if acceptedLevel payload = requestedLevel payload ∧ acceptedTarget s payload = requestedTarget payload then .ack
  else .ackA

/-- A DMD is accepted: the record becomes Live and the demand timer restarts at 6 s (R23). -/
def acceptDemand (payload : List Byte) (s : State) : State :=
  onDemand
    (fun d =>
      { d with
        state := .live, level := some (acceptedLevel payload), target := some (acceptedTarget s payload)
        timer := startSec s 6 })
    s

end Sys2Proof.Machine
end

