-- ==== Sys2Proof/Machine/Frost.lean ====
section
/-! DEFINITION. The Frost Watch and the Frost queue's offers (R96 to R113). -/

namespace Sys2Proof.Machine

/-! ### The Frost queue (R105) -/

/-- A frame offered to the queue's entries: the entry of its station is replaced in place, or takes it as
successor while in flight; else it is appended (R105), also where releases to the stations of replaced records have
brought the queue to the 12 entries that R105 counts (R111; log 50). -/
def offerFrost (station : Nat) (f : FrostFrame) : List FrostEntry → List FrostEntry
  | [] => [{ station := station, frame := f, tries := 0, inFlight := false, successor := none }]
  | e :: rest =>
    if e.station = station then
      (if e.inFlight then { e with successor := some f } else { e with frame := f, tries := 0 }) :: rest
    else e :: offerFrost station f rest

/-- A frame is queued for a station. -/
def queueFrost (station : Nat) (f : FrostFrame) (s : State) : State :=
  onArb (fun a => { a with frostQ := offerFrost station f a.frostQ }) s

/-- The pump or valve item of a zone's record. -/
def zoneStation (s : State) (z : Fin 6) (toValve : Bool) : Option ZoneStation :=
  if toValve then (zoneRec s z).valve else (zoneRec s z).pump

/-- The on or open code queued to one station of a zone, if its record names it (R104). -/
def queueHold (z : Fin 6) (toValve : Bool) (s : State) : State :=
  match zoneStation s z toValve with
  | some x => queueFrost x.station { code := x.holdCode, zone := z, toValve := toValve, release := false } s
  | none => s

/-- The off or close code queued to a station of a zone. -/
def queueRelease (z : Fin 6) (toValve : Bool) (x : ZoneStation) (s : State) : State :=
  queueFrost x.station { code := x.releaseCode, zone := z, toValve := toValve, release := true } s

/-- A zone record names a station. -/
def namesStation (r : ZoneRec) (station : Nat) : Bool :=
  r.pump.any (·.station == station) || r.valve.any (·.station == station)

/-- A zone other than `z` holds the station (R104). -/
def heldByOther (s : State) (z : Fin 6) (station : Nat) : Bool :=
  (List.finRange 6).any (fun y => y != z && (zone s y).state.holds && namesStation (zoneRec s y) station)

/-- The release of one station a zone's record names, unless another zone holds it (R104). -/
def releaseStation (z : Fin 6) (toValve : Bool) (s : State) : State :=
  match zoneStation s z toValve with
  | some x => if heldByOther s z x.station then s else queueRelease z toValve x s
  | none => s

/-- The zone begins to hold its stations (R104). -/
def beginHold (z : Fin 6) (s : State) : State :=
  onZone z (fun w => { w with refresh := startSec s 60, pumpOwed := none, valveOwed := none })
    (queueHold z true (queueHold z false s))

/-- The zone stops holding its stations, and its refresh timer stops (R104), also where a release that a Soft Restart
cut off is still owed to a station another zone holds (R107, R113; log 48). -/
def stopHold (z : Fin 6) (s : State) : State :=
  releaseStation z true (releaseStation z false (onZone z (fun w => { w with refresh := .stopped }) s))

/-- A zone takes a state; holding begins or ends with it (R97, R104). -/
def setZone (z : Fin 6) (st : ZoneState) (s : State) : State :=
  let held := (zone s z).state.holds
  let s1 := onZone z (fun w => { w with state := st }) s
  if st.holds && !held then beginHold z s1
  else if held && !st.holds then stopHold z s1
  else s1

/-! ### Frost debt (R98 to R102) -/

/-- The time that counts at an accrual, in 0.1 s, at most 600 (R98). -/
def accrualTime (last now : Nat) : Nat := saturate 600 ((now - last) / 100)

/-- The debt after an accrual (R98). -/
def accruedDebt (r : ZoneRec) (debt : Nat) (f : Int) (e : Nat) : Nat :=
  (clampInt 0 (2 * r.trigger : Nat) ((debt : Int) + (r.threshold - f) * e)).toNat

/-- Quiet, Accruing or Protecting by the debt (R99, R102). -/
def stateOfDebt (r : ZoneRec) (debt : Nat) : ZoneState :=
  if r.trigger ≤ debt then .protecting else if debt = 0 then .quiet else .accruing

/-- A zone's state after an accrual (R99, R100). -/
def stateAfterAccrual (r : ZoneRec) (before : ZoneState) (debt : Nat) (f : Int) : ZoneState :=
  if before = .protecting then
    (if r.release ≤ f ∧ 2 * debt ≤ r.trigger then (if debt = 0 then .quiet else .accruing) else .protecting)
  else stateOfDebt r debt

/-- An accepted sample at a zone that watches its sensor (R98 to R100). -/
def zoneSample (z : Fin 6) (seeding : Bool) (f : Int) (s : State) : State :=
  let w := zone s z
  let r := zoneRec s z
  match w.lastAccrual, seeding with
  | some last, false =>
    let debt := accruedDebt r w.debt f (accrualTime last s.now)
    let st := stateAfterAccrual r w.state debt f
    let s1 := setZone z st (onZone z (fun w => { w with debt := debt, lastAccrual := some s.now }) s)
    if st = .protecting ∧ w.state ≠ .protecting then latch [.frostProtectionStarted] s1 else s1
  | _, _ => onZone z (fun w => { w with lastAccrual := some s.now }) s

/-- The zone's channel is lost (R101). -/
def enterSensorless (z : Fin 6) (s : State) : State :=
  match (zone s z).state with
  | .protecting => onZone z (fun w => { w with state := .sensorlessHeld, lastAccrual := none }) s
  | .quiet | .accruing =>
    onZone z
      (fun w =>
        { w with
          state := .sensorlessDuty false, lastAccrual := none, period := startSec s (frostSettings s).period })
      s
  | .disabled | .sensorlessHeld | .sensorlessDuty _ => s

/-- The first accepted sample of a Sensorless zone (R102). -/
def leaveSensorless (z : Fin 6) (s : State) : State :=
  let r := zoneRec s z
  let st := stateOfDebt r (zone s z).debt
  let s1 := setZone z st (onZone z (fun w => { w with lastAccrual := some s.now, period := .stopped, on := .stopped }) s)
  if st = .protecting then latch [.frostProtectionStarted] s1 else s1

/-- A change of a zone's channel (R98, R101, R102). `seeding` is present when the change is an accepted
sample. -/
def zoneEvent (z : Fin 6) (seeding : Option Bool) (s : State) : State :=
  match usableF s (cZone z) with
  | none => enterSensorless z s
  | some f =>
    match seeding with
    | none => s
    | some seed =>
      if (zone s z).state.sensorless then leaveSensorless z s
      else if (zone s z).state.sensed then zoneSample z seed f s
      else s

/-! ### Frost calls (R108, R109) -/

/-- The boiler frost call at an evaluation (R108). -/
def boilerCallNext (s : State) : Bool :=
  match usableF s cWater with
  | none => false
  | some f =>
    if f ≤ (limits s).frostStart then true
    else if (limits s).frostStop ≤ f then false
    else s.frost.boilerCall

/-- The zone frost call at an evaluation (R109). -/
def zoneCallNext (s : State) : Bool :=
  if circulating s then
    match usableF s cWater with
    | none => false
    | some f =>
      if f ≤ (limits s).frostWaterMin - 50 then true
      else if (limits s).frostWaterMin ≤ f then false
      else s.frost.zoneCall
  else false

/-- An evaluation of the boiler frost call; a change is an event at the Sequencer (R108, R110). -/
def boilerCallEvent (s : State) : State :=
  if boilerCallNext s = s.frost.boilerCall then s
  else seqEvent { s with frost := { s.frost with boilerCall := boilerCallNext s } }

/-- An evaluation of the zone frost call (R109, R110). -/
def zoneCallEvent (s : State) : State :=
  if zoneCallNext s = s.frost.zoneCall then s
  else seqEvent { s with frost := { s.frost with zoneCall := zoneCallNext s } }

/-! ### Duty, refresh and rewrite (R103, R107, R111) -/

/-- It is cold outdoors, or not known to be warm (R103). -/
def outdoorCold (s : State) : Bool :=
  match usableF s cOutdoor with
  | none => true
  | some f => f < (frostSettings s).outdoorLimit

/-- A new duty period begins (R103). -/
def beginPeriod (z : Fin 6) (s : State) : State :=
  let s1 := onZone z (fun w => { w with period := startSec s (frostSettings s).period }) s
  if outdoorCold s then
    onZone z (fun w => { w with on := startSec s (frostSettings s).onTime })
      (setZone z (.sensorlessDuty true) s1)
  else s1

/-- A duty on-period ends (R103). -/
def endOnPeriod (z : Fin 6) (s : State) : State :=
  setZone z (.sensorlessDuty false) (onZone z (fun w => { w with on := .stopped }) s)

/-- The release a zone owes its pump or its valve. -/
def owed (w : Zone) (toValve : Bool) : Option OwedRelease := if toValve then w.valveOwed else w.pumpOwed

/-- The owed flag set to a value. -/
def setOwed (toValve : Bool) (value : Option OwedRelease) (w : Zone) : Zone :=
  if toValve then { w with valveOwed := value } else { w with pumpOwed := value }

/-- The refresh timer stops when the zone neither holds nor owes (R107). -/
def stopIdleRefresh (z : Fin 6) (s : State) : State :=
  if (zone s z).state.holds || (zone s z).pumpOwed.isSome || (zone s z).valveOwed.isSome then s
  else onZone z (fun w => { w with refresh := .stopped }) s

/-- A release a zone owes is offered again to its station until it is delivered, while no zone holds that station,
and is dropped where another zone now holds it (R107). The station and the code are those of the frame that was
not delivered, also after a rewrite of the record (R111; log 25). -/
def refreshOwed (z : Fin 6) (toValve : Bool) (s : State) : State :=
  match owed (zone s z) toValve with
  | some x =>
    if heldByOther s z x.station then onZone z (setOwed toValve none) s
    else if (zone s z).state.holds && namesStation (zoneRec s z) x.station then s
    else queueFrost x.station { code := x.code, zone := z, toValve := toValve, release := true } s
  | none => s

/-- The refresh of a zone (R107). -/
def refreshZone (z : Fin 6) (s : State) : State :=
  let s1 := onZone z (fun w => { w with refresh := startSec s 60 }) s
  let s2 := if (zone s z).state.holds then queueHold z true (queueHold z false s1) else s1
  stopIdleRefresh z (refreshOwed z true (refreshOwed z false s2))

/-- A zone taken from its record and its channel, with no debt (R97, R111). -/
def startZone (z : Fin 6) (s : State) : Zone :=
  if (zoneRec s z).enabled then
    if isUsable s (cZone z) then { Zone.idle with state := .quiet }
    else { Zone.idle with state := .sensorlessDuty false, period := startSec s (frostSettings s).period }
  else Zone.idle

/-- The first step of a rewrite, while the old record is in force: a circulating zone stops holding
(R111). -/
def releaseForRewrite (z : Fin 6) (s : State) : State :=
  if (zone s z).state.holds then setZone z .quiet s else s

/-- The rest of a rewrite, by the new record: nothing owed, no debt, the state taken afresh (R111). -/
def restartZone (z : Fin 6) (s : State) : State := onZone z (fun _ => startZone z s) s

/-! ### The end of a Frost queue try (R106, R113) -/

/-- A release was not delivered: the zone owes it to its station, and its refresh timer starts if stopped (R106,
R107). R107 has the timer start again at 60 s and does not say whether a second such release restarts a timer that
already runs for the first: the model leaves a running timer as it is (DESIGN CHOICE, log 58), which is what R113 gives
at a Soft Restart. R97 gives a zone one pump and one valve flag: a release already owed to another station, that of a
replaced record, is owed no longer (R111, R113; log 49). -/
def owe (station : Nat) (f : FrostFrame) (s : State) : State :=
  onZone f.zone
    (fun w =>
      let w1 := setOwed f.toValve (some { station := station, code := f.code }) w
      if w1.refresh = .stopped then { w1 with refresh := startSec s 60 } else w1)
    s

/-- The Frost Watch is told of a delivered frame: a release clears the owed flag of its station (R106, R107). -/
def frostDelivered (station : Nat) (f : FrostFrame) (s : State) : State :=
  if f.release then
    stopIdleRefresh f.zone
      (onZone f.zone
        (fun w => if (owed w f.toValve).any (·.station == station) then setOwed f.toValve none w else w) s)
  else s

/-- The Frost Watch is told of a refused or given-up frame (R106). -/
def frostLost (station : Nat) (f : FrostFrame) (s : State) : State :=
  if f.release && !(zone s f.zone).state.holds then owe station f s else s

/-- The head entry's frame leaves it: its successor takes its place, or the entry is removed (R106). -/
def leaveEntry : List FrostEntry → List FrostEntry
  | [] => []
  | e :: rest =>
    match e.successor with
    | some f => { e with frame := f, tries := 0, inFlight := false, successor := none } :: rest
    | none => rest

/-- Every entry of the Frost queue is removed; each release lost with it is owed (R113). -/
def emptyFrostQueue (s : State) : State :=
  (s.arb.frostQ.flatMap (fun e => (e.frame :: e.successor.toList).map (fun f => (e.station, f)))).foldl
    (fun s x => if x.2.release then owe x.1 x.2 s else s)
    (onArb (fun a => { a with frostQ := [] }) s)

end Sys2Proof.Machine
end

