-- ==== Sys2Proof/Machine/Reactions.lean ====
section
/-! DEFINITION. What one command sets in motion: the reactions of the blocks that read a changed channel
or a replaced working copy, taken one after the other in a free order (R15, R16, R161; log 1). -/

namespace Sys2Proof.Machine

/-- One reaction of one block. -/
inductive Task where
  /-- a matching channel takes the sample (R5) -/
  | sample (k : Fin 14) (payload : List Byte)
  /-- the field sample is offered to the UTQ (R143) -/
  | forward (dst src sampleSet : Nat) (payload : List Byte)
  /-- the Sequencer tests the conditions of its state (R33) -/
  | sequencer
  /-- the Sequencer after a change of the oil line or of Limits (R71, R75) -/
  | heater
  /-- the Flue Check Unit after a change of the flue channel (R89, R90) -/
  | flue
  /-- the Flue Check Unit after a change of the draught channel (R84, R86) -/
  | draught
  /-- the Flue Check Unit after a change of the diverter channel (R92, R93) -/
  | diverter
  /-- the Demand Unit evaluates the heat call (R26) -/
  | demand
  /-- the Demand Unit after a replacement of Limits (R25) -/
  | reclamp
  /-- the Demand Unit after a replacement of Schedule (R31) -/
  | rate
  /-- the Sequencer after a replacement of Schedule (R35, R61) -/
  | schedule
  /-- the Frost Watch evaluates the boiler frost call (R108) -/
  | boilerCall
  /-- the Frost Watch evaluates the zone frost call (R109) -/
  | zoneCall
  /-- a zone after a change of its channel; `seeding` present for an accepted sample (R98 to R102) -/
  | zone (z : Fin 6) (seeding : Option Bool)
  /-- a channel is rebound (R16) -/
  | rebind (k : Fin 14)
  /-- Store Fault reaches the Sequencer (R55) -/
  | storeFault
deriving DecidableEq, Repr

/-- The readers of a channel (R1), each to react to a change of its record. Outdoor is read at later
events alone. -/
def readers (k : Fin 14) (seeding : Option Bool) : List Task :=
  match k.val with
  | 0 => [.sequencer, .flue]
  | 1 => [.sequencer, .draught]
  | 2 => [.diverter]
  | 3 => [.sequencer]
  | 4 => [.heater]
  | 5 => [.sequencer]
  | 6 => [.demand, .sequencer, .boilerCall, .zoneCall]
  | 7 => []
  | 8 => [.zone 0 seeding]
  | 9 => [.zone 1 seeding]
  | 10 => [.zone 2 seeding]
  | 11 => [.zone 3 seeding]
  | 12 => [.zone 4 seeding]
  | _ => [.zone 5 seeding]

/-- A channel takes a sample (R5 to R13, R18). -/
def sampleChannel (k : Fin 14) (payload : List Byte) (s : State) : State × List Task :=
  match bindingOf s k with
  | none => (s, [])
  | some b =>
    let t := takeSample b s.now payload (chan s k)
    let s1 := setChan k t.chan s
    (if t.faulted then latch [.channelFaulted] s1 else s1, if t.changed then readers k t.accepted else [])

/-- A channel after a change of its binding (R3, R16). `lastTime` is kept. -/
def reboundChannel (now : Nat) (b : Option Binding) (c : Channel) : Channel :=
  match b with
  | some x =>
    { state := .awaiting, reading := none, count := 0, lastTime := c.lastTime, timer := .running (now + 1000 * x.freshness) }
  | none => { state := .unbound, reading := none, count := 0, lastTime := c.lastTime, timer := .stopped }

/-- A channel is rebound; nothing is latched (R16). -/
def rebindChannel (k : Fin 14) (s : State) : State × List Task :=
  (setChan k (reboundChannel s.now (bindingOf s k) (chan s k)) s, readers k none)

/-- A replacement of Schedule at the Sequencer: the failure count is lowered to a lower recycle limit, and
the called-for set worked out (R35, R61). -/
def scheduleEvent (s : State) : State :=
  let limit := (schedule s).recycleLimit
  seqEvent
    (refreshSet (if limit < s.seq.failCount then onSeq (fun q => { q with failCount := limit }) s else s))

/-- A zone's reaction; where it begins or stops circulating the zone frost call is evaluated (R109). -/
def zoneTask (z : Fin 6) (seeding : Option Bool) (s : State) : State × List Task :=
  let s1 := zoneEvent z seeding s
  (s1, if (zone s1 z).state.holds = (zone s z).state.holds then [] else [.zoneCall])

/-- One reaction: the state after it, and the reactions it sets in motion. -/
def runTask (t : Task) (s : State) : State × List Task :=
  match t with
  | .sample k payload => sampleChannel k payload s
  | .forward dst src sampleSet payload =>
    (offer { dst := dst, src := src, kind := .smp, sub := sampleSet, payload := payload } s, [])
  | .sequencer => (seqEvent s, [])
  | .heater => (oilEvent s, [])
  | .flue => (flueEvent s, [])
  | .draught => (draughtEvent s, [])
  | .diverter => (diverterEvent s, [])
  | .demand => (demandEvent s, [])
  | .reclamp => (reclampEvent s, [])
  | .rate => (rateEvent s, [])
  | .schedule => (scheduleEvent s, [])
  | .boilerCall => (boilerCallEvent s, [])
  | .zoneCall => (zoneCallEvent s, [])
  | .zone z seeding => zoneTask z seeding s
  | .rebind k => rebindChannel k s
  | .storeFault => (storeFaultEvent s, [])

/-- The reactions are taken until none is left, each freely chosen (log 1). The count exceeds the number
of reactions one command can set in motion (log 37). -/
def runTasks : Nat → List Task → State → State
  | 0, _, s => s
  | n + 1, ts, s =>
    match ts[(pick ts.length s).1]? with
    | none => s
    | some t =>
      runTasks n (ts.eraseIdx (pick ts.length s).1 ++ (runTask t (pick ts.length s).2).2)
        (runTask t (pick ts.length s).2).1

/-- All the reactions of a list. -/
def reactTo (ts : List Task) (s : State) : State := runTasks 200 ts s

/-- A function over each element of a list, in a free order. -/
def forEachFreely {α : Type} (f : α → State → State) : Nat → List α → State → State
  | 0, _, s => s
  | n + 1, l, s =>
    match l[(pick l.length s).1]? with
    | none => s
    | some x => forEachFreely f n (l.eraseIdx (pick l.length s).1) (f x (pick l.length s).2)

end Sys2Proof.Machine
end

