-- ==== Sys2Proof/Machine/Validate.lean ====
section
/-! DEFINITION. Validation of a page's content (R158, with the ranges of R4, R65, R81, R96, R140, R145,
R180 to R182): three tests per page, Range, Order and Cross-check. -/

namespace Sys2Proof.Machine

/-- `lo ≤ x ≤ hi`. -/
def within (lo hi x : Int) : Bool := lo ≤ x && x ≤ hi

/-- A station number byte, 1 to 47. -/
def stationByte (n : Nat) : Bool := 1 ≤ n && n ≤ 47

/-! ### Pages 0 and 1 -/

/-- Page 0: both stations in range and different, nothing else (R180). -/
def identityRange (c : Content) : Bool :=
  stationByte (byteAt c 0) && stationByte (byteAt c 1) && byteAt c 0 != byteAt c 1 && zeroFrom c 2

/-- Page 1: segments 0 to 3 and classes 0 to 6, nothing else (R180). Whether the class of an Absent or Own entry, which
R140 says has no effect, is an inapplicable field that must be 0 the spec leaves open: R180's list of such fields does
not name it. The model takes any class there (DESIGN CHOICE, log 60). -/
def mapRange (c : Content) : Bool :=
  (List.range 47).all (fun i => bits (byteAt c i) 7 4 ≤ 3 && bits (byteAt c i) 3 0 ≤ 6) && zeroFrom c 47

/-! ### Pages 2 to 5 -/

/-- The ranges of a binding's core (R4, R180); an Unbound core has nothing after its source byte. -/
def coreRange (k : Nat) (b : List Byte) : Bool :=
  if byteAt b 0 = 0 then (slice b 1 12).all (· == 0)
  else
    let f := byteAt b 2
    let width := if bit f 3 then 2 else 1
    let off := bits (byteAt b 3) 4 0
    byteAt b 0 ≤ 47 && byteAt b 1 ≤ 63 && bits f 1 0 ≤ 2 && off ≤ 19 && off + width ≤ 20
      && (bits (byteAt b 3) 7 5 ≤ if k = 3 then 1 else 6)
      && 1 ≤ byteAt b 4 && byteAt b 4 ≤ 60

/-- A low clamp below its high clamp (R4, R158). -/
def coreOrder (b : List Byte) : Bool := byteAt b 0 == 0 || s16At b 9 < s16At b 11

/-- A marker word lies in the raw range of the core's width and signedness (R4, R7, R181). -/
def markerInRange (wide isSigned : Bool) (n : Nat) : Bool :=
  match wide, isSigned with
  | true, _ => true
  | false, false => n ≤ 255
  | false, true => within (-128) 127 (signed 16 n)

/-- The marker words of a binding fit its core: used words in range, unused words zero (R180, R182).
`b` is the 17 bytes of the binding. An unused word is judged by R182's Validation, so that new marker words are refused
on page 5 while the core's count is 0, though R182's last paragraph has them loaded so: the model's choice (log 57). -/
def markersFit (b : List Byte) : Bool :=
  let count := if byteAt b 0 = 0 then 0 else bits (byteAt b 2) 1 0
  let wide := bit (byteAt b 2) 3
  let sgn := bit (byteAt b 2) 2
  (if 1 ≤ count then markerInRange wide sgn (u16At b 13) else u16At b 13 == 0)
    && (if 2 ≤ count then markerInRange wide sgn (u16At b 15) else u16At b 15 == 0)

/-- The channels whose core is on page `p`. -/
def coresOn (p : Nat) : List Nat := (List.range 14).filter (fun k => corePage k == p)

/-- The channels whose core and marker words are both on page `p`. -/
def wholeOn (p : Nat) : List Nat := (coresOn p).filter (fun k => (markerPlace k).1 == p)

/-- The channels whose core is on page 2, 3 or 4 and whose marker words are on page 5 (R182). -/
def splitChannels : List Nat := [2, 3, 6, 7, 10, 11]

/-- The first byte of a binding page that has no field (R181). -/
def bindingEnd (p : Nat) : Nat := if p = 5 then 58 else 60

/-- The range tests of a binding page (R4, R180, R182). -/
def bindingRange (p : Nat) (c : Content) : Bool :=
  (coresOn p).all (fun k => coreRange k (bindingBytes (fun _ => c) k))
    && (wholeOn p).all (fun k => markersFit (bindingBytes (fun _ => c) k))
    && zeroFrom c (bindingEnd p)

/-- The order tests of a binding page. -/
def bindingOrder (p : Nat) (c : Content) : Bool :=
  (coresOn p).all (fun k => coreOrder (bindingBytes (fun _ => c) k))

/-- The marker words on page 5 against their cores (R182), for the split channels on page `p`: a non-zero word that the
core on its page leaves unused fails, as R182's Validation has it (log 57). -/
def bindingCross (p : Nat) (page : Nat → Content) : Bool :=
  (splitChannels.filter (fun k => p == 5 || corePage k == p)).all (fun k => markersFit (bindingBytes page k))

/-! ### Pages 6 and 7 -/

/-- The range test of the permit entry at byte `i` (R145, R180). -/
def permitRange (c : Content) (i : Nat) : Bool :=
  let off := bits (byteAt c i) 4 0
  let b2 := byteAt c (i + 2)
  if off ≠ 0 then off ≤ 19
  else match bits b2 7 4 with
    | 0 => (slice c i 4).all (· == 0)
    | 1 => bits b2 3 0 == 0 && byteAt c (i + 3) == 0
    | 2 => true
    | 3 => bits b2 3 0 == 0 && byteAt c (i + 3) == 0
    | _ => false

/-- A Clamp minimum not above its maximum (R145, R158). -/
def permitOrder (c : Content) (i : Nat) : Bool :=
  bits (byteAt c i) 4 0 == 0 || byteAt c (i + 2) ≤ byteAt c (i + 3)

/-! ### Pages 8 and 9 -/

/-- Range tests of Schedule (R180). -/
def scheduleRange (c : Content) : Bool :=
  let s := decodeSchedule c
  within 10 120 s.prePurge && within 30 300 s.purgMax && within 50 100 s.purgeFan
    && within 20 100 s.ignitionFan && within 2 10 s.safetyTime && within 60 600 s.warmMax
    && within 50 800 s.requiredRise && within 20 60 s.lowFire && within 60 100 s.highFire
    && byteAt c 12 == 0 && within 0 300 s.postMin && within 60 900 s.postMax
    && within 30 600 s.recycleWait && within 0 3 s.recycleLimit && within 2 20 s.proofTime
    && within 2 30 s.lossTime && within 60 1200 s.condMax && within 120 3600 s.coldHold
    && byteAt c 26 ≤ 1 && zeroFrom c 27

/-- POST maximum not below POST minimum (R158). -/
def scheduleOrder (c : Content) : Bool := (decodeSchedule c).postMin ≤ (decodeSchedule c).postMax

/-- Range tests of Limits (R180). -/
def limitsRange (c : Content) : Bool :=
  let l := decodeLimits c
  within 800 1000 l.waterHigh && within 0 1000 l.targetMin && within 0 1000 l.targetMax
    && within 20 150 l.differential && within 1500 3500 l.flueHigh && within 200 1500 l.flueCool
    && within 50 400 l.spillageRise && within 100 900 l.flameOn && within 0 900 l.flameOff
    && within 0 200 l.reverseLimit && within (-100) 150 l.oilMinimum && within 300 900 l.nozzleReady
    && within 30 150 l.frostStart && within 100 400 l.frostStop && within 200 600 l.frostWaterMin
    && zeroFrom c 30

/-- Order tests of Limits (R158). -/
def limitsOrder (c : Content) : Bool :=
  let l := decodeLimits c
  l.flameOff < l.flameOn && l.targetMin < l.targetMax && l.flueCool < l.flueHigh && l.frostStart < l.frostStop

/-! ### Page 10 -/

/-- Strictly ascending x (R65). -/
def xAscending : List (Int × Int) → Bool
  | p :: q :: rest => p.1 < q.1 && xAscending (q :: rest)
  | _ => true

/-- Each y equal to or less than the one before it (R65). -/
def yFalling : List (Int × Int) → Bool
  | p :: q :: rest => q.2 ≤ p.2 && yFalling (q :: rest)
  | _ => true

/-- Range tests of the curves (R65, R81, R180). -/
def curveRange (c : Content) : Bool :=
  let n := preheatCount c
  let m := draughtCount c
  within 2 8 n && within 2 8 m
    && (preheatCurve c).all (fun p => within (-500) 500 p.1 && within 0 1200 p.2)
    && (draughtCurve c).all (fun p => within (-500) 500 p.1 && within 10 500 p.2)
    && (slice c (1 + 3 * n) (24 - 3 * n)).all (· == 0)
    && (slice c (25 + 3 * m) (24 - 3 * m)).all (· == 0)
    && zeroFrom c 49

/-- Order tests of the curves (R65, R81). -/
def curveOrder (c : Content) : Bool :=
  xAscending (preheatCurve c) && yFalling (preheatCurve c) && xAscending (draughtCurve c)

/-! ### Pages 11 to 13 -/

/-- An absent station's bytes are zero; a present one is in range (R96, R180). -/
def zoneStationRange (present : Bool) (c : Content) (i : Nat) : Bool :=
  if present then stationByte (byteAt c i) && byteAt c (i + 1) ≤ 0xFE && byteAt c (i + 2) ≤ 0xFE
  else (slice c i 3).all (· == 0)

/-- Range tests of the zone record at byte `i` (R96, R180). -/
def zoneRange (c : Content) (i : Nat) : Bool :=
  let z := zoneRecAt c i
  let f := byteAt c i
  f ≤ 7 && within (-50) 150 z.threshold && within 6000 2000000 z.trigger && z.release ≤ 300
    && zoneStationRange (bit f 1) c (i + 9) && zoneStationRange (bit f 2) c (i + 12)

/-- The two codes of a station differ. -/
def codesDiffer : Option ZoneStation → Bool
  | some s => s.holdCode != s.releaseCode
  | none => true

/-- Order tests of a zone record (R96, R158). -/
def zoneOrder (c : Content) (i : Nat) : Bool :=
  let z := zoneRecAt c i
  z.threshold < z.release && codesDiffer z.pump && codesDiffer z.valve

/-- Class and distinctness conditions on a zone's stations against a map (R96, R158). -/
def zoneCross (map : Content) (z : ZoneRec) : Bool :=
  (match z.pump with | some p => isFieldClass map classPump p.station | none => true)
    && (match z.valve with | some v => isFieldClass map classValve v.station | none => true)
    && (match z.pump, z.valve with | some p, some v => p.station != v.station | _, _ => true)

/-- The three zone records of a zone page against a map. -/
def zonePageCross (map c : Content) : Bool :=
  [0, 15, 30].all (fun i => zoneCross map (zoneRecAt c i))

/-- Range tests of the frost settings (R96, R180). -/
def frostRange (c : Content) : Bool :=
  let f := decodeFrost c
  within 60 1800 f.onTime && within 600 7200 f.period && within (-300) 100 f.outdoorLimit && zeroFrom c 6

/-- The sensorless period is longer than the on time (R96, R158). -/
def frostOrder (c : Content) : Bool := (decodeFrost c).onTime < (decodeFrost c).period

/-! ### The three tests of a page -/

/-- The Range tests of page `p` (R158). -/
def rangeOk (p : Nat) (c : Content) : Bool :=
  c.length == 62 &&
  match p with
  | 0 => identityRange c
  | 1 => mapRange c
  | 2 | 3 | 4 | 5 => bindingRange p c
  | 6 | 7 => (List.range 15).all (fun k => permitRange c (4 * k)) && zeroFrom c 60
  | 8 => scheduleRange c
  | 9 => limitsRange c
  | 10 => curveRange c
  | 11 | 12 => [0, 15, 30].all (zoneRange c) && zeroFrom c 45
  | 13 => frostRange c
  | _ => true

/-- The Order tests of page `p` (R158). -/
def orderOk (p : Nat) (c : Content) : Bool :=
  match p with
  | 2 | 3 | 4 | 5 => bindingOrder p c
  | 6 | 7 => (List.range 15).all (fun k => permitOrder c (4 * k))
  | 8 => scheduleOrder c
  | 9 => limitsOrder c
  | 10 => curveOrder c
  | 11 | 12 => [0, 15, 30].all (zoneOrder c)
  | 13 => frostOrder c
  | _ => true

/-- The Cross-check tests of page `p`, where `page q` is the content that page `q` will hold (R158,
R182); `page p` is the content judged. -/
def crossOk (p : Nat) (page : Nat → Content) : Bool :=
  match p with
  | 0 => mapMatches (page 0) (page 1)
  | 1 => mapMatches (page 0) (page 1) && zonePageCross (page 1) (page 11) && zonePageCross (page 1) (page 12)
  | 2 | 3 | 4 | 5 => bindingCross p page
  | 11 | 12 => zonePageCross (page 1) (page p)
  | _ => true

/-- The tests that page `p` fails, in the table's order of R158. Where several fail, which one is the
first is not stated, and is taken in a free order (log 15). -/
def failedTests (p : Nat) (page : Nat → Content) : List RejectReason :=
  (if rangeOk p (page p) then [] else [.range])
    ++ (if orderOk p (page p) then [] else [.order])
    ++ (if crossOk p page then [] else [.crossCheck])

end Sys2Proof.Machine
end

