-- ==== Sys2Proof/Machine/Store.lean ====
section
/-! DEFINITION. The Table Store's shared operations: what a page holds, the replacement of working copies
with its readers' reactions, deferral, and the judgement of a write (R155 to R164, R182); and the frame
every meaning is put in. -/

namespace Sys2Proof.Machine

/-! ### What a page holds -/

/-- Safety pages (R155). -/
def isSafety (p : Nat) : Bool := p ≤ 10

/-- The copy a page 0 to 13 is loaded or reloaded with: the installer page if valid, else the factory page
(R156, R161, R162). -/
def fromStore (s : State) (p : Nat) : Copy :=
  if (storedOf s p).ok then Copy.sound (storedOf s p).content .installer
  else Copy.sound (factoryOf s p).content .factory

/-- The content a page will hold once its own write is installed (R158). -/
def willHold (s : State) (p : Nat) : Content := if (copyOf s p).deferred then (fromStore s p).content else pageOf s p

/-- What a Fetch reads of a page, and whether its flag is factory (R155). -/
def fetched (s : State) (p : Nat) : Content × Bool :=
  if p < 14 then ((fromStore s p).content, (fromStore s p).source == .factory)
  else ((if (storedOf s p).ok then (storedOf s p).content else pageOf s p), 19 ≤ p)

/-! ### Replacement of working copies (R16, R25, R31, R61, R111, R161) -/

/-- The channels a replacement rebinds: those on a replaced page whose binding bytes differ, or all of
them for a reload (R16, R182). -/
def reboundBy (before after : State) (pages : List Nat) (reload : Bool) : List (Fin 14) :=
  (List.finRange 14).filter (fun k =>
    pages.any (fun p => (channelsOn p).contains k)
      && (reload || bindingBytes (pageOf before) k.val != bindingBytes (pageOf after) k.val))

/-- The zones a replacement rewrites (R111). -/
def rewrittenBy (s : State) (l : List (Nat × Copy)) (reload : Bool) : List (Fin 6) :=
  (List.finRange 6).filter (fun z =>
    l.any (fun x =>
      x.1 == zonePage z.val && (reload || zoneBytes x.2.content z.val != zoneBytes (pageOf s x.1) z.val)))

/-- The reactions to replaced pages 8, 9, 11 and 12. -/
def pageReaders (p : Nat) : List Task :=
  match p with
  | 8 => [.schedule, .rate]
  | 9 => [.reclamp, .heater, .boilerCall, .zoneCall]
  | 11 | 12 => [.zoneCall]
  | _ => []

/-- Working copies are replaced at one event. The state after it, and the reactions of the blocks that
read them. A copy replaced by an equal content sets nothing in motion unless it is a reload (R161; log 36);
a reload of a safety page is a Store Fault (R55). -/
def replaceCopies (l : List (Nat × Copy)) (reload : Bool) (s : State) : State × List Task :=
  let changed := l.filter (fun x => reload || x.2.content != pageOf s x.1)
  let pages := changed.map (·.1)
  let zones := rewrittenBy s changed reload
  let s1 := forEachFreely releaseForRewrite 6 zones s
  let s2 := l.foldl (fun s x => setCopy x.1 x.2 s) s1
  let s3 := zones.foldl (fun s z => restartZone z s) s2
  (s3,
    (reboundBy s s2 pages reload).map Task.rebind ++ pages.flatMap pageReaders
      ++ (if reload && pages.any isSafety then [.storeFault] else []))

/-- Working copies are replaced and the reactions taken. -/
def install (l : List (Nat × Copy)) (reload : Bool) (s : State) : State :=
  reactTo (replaceCopies l reload s).2 (replaceCopies l reload s).1

/-- The pages with a deferred copy; only a management write defers one, so it is a page 0 to 13 (R161). -/
def deferredPages (s : State) : List Nat := (List.range 14).filter (fun p => (copyOf s p).deferred)

/-- Deferred copies are installed from their stored pages (R161). -/
def installDeferred (s : State) : State :=
  if (deferredPages s).isEmpty then s else install ((deferredPages s).map (fun p => (p, fromStore s p))) false s

/-- The copy of a page becomes deferred (R161). -/
def deferCopy (s : State) (p : Nat) : State := setCopy p { copyOf s p with deferred := true } s

/-- Pages whose management write or erase has completed: installed, or deferred together (R159, R161,
R162). -/
def installWritten (pages : List Nat) (s : State) : State :=
  if s.seq.sup.quiet || !(pages.any isSafety) then install (pages.map (fun p => (p, fromStore s p))) false s
  else pages.foldl deferCopy s

/-- The end of a command: where it left the supervisor state changed to STBY, LOCK or FLCK, deferred
copies are installed (R161). -/
def settle (before : SupState) (s : State) : State :=
  if s.seq.sup ≠ before ∧ s.seq.sup.quiet = true then installDeferred s else s

/-! ### The frame of a meaning -/

/-- A command that involves no free order: nothing happens without supply (log 7). -/
def act (f : State → State) (s : State) : Host.Outcome State Fault Refusal := .next (if s.powered then f s else s)

/-- A command with reactions: deferred copies are installed at its end, and the next command gets a free
order of its own (log 1). -/
def react (f : State → State) (s : State) : Host.Outcome State Fault Refusal :=
  act (fun s => renewOrder (settle s.seq.sup (f s))) s

/-! ### The judgement of a write or erase (R157 to R159) -/

/-- Steps 1 and 2 of R157: the link, and the state of the part. -/
def judgeAccess (p : Nat) (s : State) : Option Status :=
  if isSafety p && !s.link then some .doneProtected
  else if isSafety p && !s.seq.sup.quiet then some .busy
  else none

/-- Deferred copies are installed before a content is validated (R157, R161). -/
def beforeValidation (s : State) : State := if s.seq.sup.quiet then installDeferred s else s

/-- The pages a content for page `p` is validated against. With a held identity, page 0 is that (R159). -/
def pagesWith (s : State) (p : Nat) (content : Content) (held : Option Content) : Nat → Content := fun q =>
  if q = p then content
  else if q = 0 then held.getD (willHold s 0)
  else willHold s q

/-- The reason a content is rejected with, if it is: one of the tests it fails (R158; log 15). -/
def rejection (tests : List RejectReason) (s : State) : Option RejectReason × State := choose tests s

/-- The tests a page 0 that begins a pair fails: its cross-check is left to page 1 (R159). -/
def pairTests (c : Content) : List RejectReason :=
  (if rangeOk 0 c then [] else [.range]) ++ (if orderOk 0 c then [] else [.order])

/-! ### The sweep (R163 to R165) -/

/-- The sweep moves on to the next page and its timer restarts (R163). -/
def sweepOn (s : State) : State :=
  onStore (fun t => { t with sweepPos := if t.sweepPos = 20 then 0 else t.sweepPos + 1, sweepTimer := startSec s 5 }) s

/-- A factory page fails its check: Store Fault, and the factory fault stands (R120, R164, R165). -/
def factoryFails (s : State) : State := factoryFaultEvent (latch [.storeFault] s)

/-- The check of a page 0 to 13 (R164). R164 names the reload of a bad copy before Store Fault and does not say which is
taken first: the model latches first, so that with a bad page 0 the alert bears that copy's stations (DESIGN CHOICE,
log 59). -/
def checkPaged (p : Nat) (s0 : State) : State :=
  let s := if (factoryOf s0 p).ok then s0 else factoryFails s0
  if (copyOf s p).ok then
    if (copyOf s p).source = .installer ∧ (storedOf s p).ok = false then
      onStore (fun t => { t with sweepClaim := some .repair }) (latch [.storeFault] s)
    else sweepOn s
  else if (storedOf s p).ok || (factoryOf s p).ok then
    install [(p, fromStore s p)] true (latch [.storeFault] (sweepOn s))
  else sweepOn s

/-- The Record Lost reset of page 14: the history goes with it (R116, R165). -/
def loseRecord (s : State) : State := emptyHistory (changeLock (fun _ => LockPage.recordLost) s)

/-- The check of a record page (R165). -/
def checkRecord (p : Nat) (s : State) : State :=
  match (copyOf s p).ok, (storedOf s p).ok with
  | true, true => s
  | false, true => latch [.storeFault] (setCopy p (Copy.sound (storedOf s p).content .record) s)
  | true, false => latch [.storeFault] (askWrite p s)
  | false, false =>
    if p = 14 then latch [.storeFault, .lockoutEntered] (loseRecord s)
    else latch [.storeFault] (changeRecord p zeroContent s)

/-- The check of a fixed page (R165). -/
def checkFixed (p : Nat) (s : State) : State :=
  if (storedOf s p).ok then
    (if (copyOf s p).ok then s else latch [.storeFault] (setCopy p (Copy.sound (storedOf s p).content .factory) s))
  else factoryFails s

/-- The check step of a page is judged (R164, R165). -/
def checkPage (p : Nat) (s : State) : State :=
  if p < 14 then checkPaged p s
  else if p < 19 then sweepOn (checkRecord p s)
  else sweepOn (checkFixed p s)

end Sys2Proof.Machine
end

