-- ==== Sys2Proof/Machine/Line.lean ====
section
/-! DEFINITION. The ports, the tries and their owners (R125 to R139, R146 to R152). -/

namespace Sys2Proof.Machine

/-! ### Frames that arrive (R126, R129) -/

/-- The idle gap of 2 character times, in whole ms (R125; log 9). -/
def gapMs : Nat := 5

/-- An ack byte of the part's own, of 1 character time, in whole ms (log 9). -/
def ackMs : Nat := 3

/-- The powered time at which the stop bit of the part's own ack byte ends, where its ack position opens now. R129 has
the byte sent within the 2 character times of the position: how long it waits there, 0 to 2 ms, is free (log 9, 56). -/
def stopBitAt (id : PortId) (s : State) : Nat := s.now + ackMs + Config.freeAnswer s.freeIndex (id == .field) % 3

/-- What is left of 1 s of dominant time when an opener or a hold is told, in whole ms (log 9, 41). -/
def dominantMs : Nat := 998

/-- The port follows a frame of another station, whose opener it has seen, or that won an arbitration against
it (R125, R126, R131). A frame completes at such a port and at no other (log 10). -/
def canReceive (p : Port) : Bool := p.line == .receiving && p.gap == .busy

/-- The port returns to Idle and the idle gap begins (R125). -/
def toIdle (s : State) (p : Port) : Port :=
  { p with line := .idle, gap := .running (s.now + gapMs), dominant := .stopped }

/-- The port's ack position opens for the part's own ack byte, at the frame's completion or at the release of a hold.
The port keeps its line state, Receiving or Holding, until the byte's stop bit, at which it returns to Idle and the
idle gap begins (R125, R129; `passGap`, log 56). -/
def toAnswered (id : PortId) (a : Ack) (s : State) (p : Port) : Port :=
  { p with gap := .answering (stopBitAt id s), dominant := .stopped, answer := some a }

/-- The port's own ack byte is on the line (R129). -/
def Port.sendsAck (p : Port) : Bool :=
  match p.gap with
  | .answering _ => true
  | .busy | .held | .running _ | .elapsed => false

/-- The port follows what other stations do on the line, no frame of which is for the part, until the next idle
gap; how long that is, no command tells (R125, R126, R132; log 40). -/
def toWaiting (id : PortId) (s : State) (p : Port) : Port :=
  { p with
    line := .receiving, gap := .running (s.now + gapMs + Config.freeTraffic s.freeIndex (id == .field))
    dominant := .stopped }

/-- The port follows a line that another station keeps dominant beyond the hold limit (R130). -/
def toHeld (p : Port) : Port := { p with line := .receiving, gap := .held }

/-- The line of a port that follows no frame was in use until now: its idle gap begins again (R125, R139). While the
part's own ack byte is on the line the gap begins at its stop bit (R129; log 10). -/
def hearTraffic (id : PortId) (s : State) : State :=
  onPort id
    (fun p =>
      if (p.line == .idle || p.line == .receiving) && !canReceive p && !p.sendsAck then
        { p with gap := .running (s.now + gapMs), dominant := .stopped }
      else p)
    s

/-- Another station keeps the line of a port that follows no frame dominant for more than one character time: the
line is in use until its release is told, also over an ack byte of the part's own, and its dominant time counts
(R125, R134, R138; log 40, 41). -/
def hearHold (id : PortId) (s : State) : State :=
  onPort id
    (fun p =>
      if (p.line == .idle || p.line == .receiving) && !canReceive p && p.gap != .held then
        { p with gap := .held, dominant := startMs s dominantMs }
      else p)
    s

/-- A valid frame from another station restarts the field silence timer (R136). -/
def heardField (id : PortId) (s : State) : State :=
  match id with
  | .field => { s with cyc := { s.cyc with silence := startMs s 5000 } }
  | .upstream => s

/-- A valid frame completes at a port, with the part's answer, if any (R126, R129, R136). -/
def complete (id : PortId) (answer : Option Ack) (s : State) : State :=
  heardField id
    (onPort id
      (fun p => match answer with
        | some a => toAnswered id a s p
        | none => { toIdle s p with answer := none })
      s)

/-- A valid directed CMD, DMD or MRQ to another station completes at a port: the port stays Receiving through its
ack position, which that station drives (R125, R128). -/
def followAck (id : PortId) (s : State) : State :=
  heardField id (onPort id (fun p => { toWaiting id s p with answer := none }) s)

/-- A valid frame between other stations completes at a port. Whether an ack position follows it, the command
does not tell: both are taken (R125, R128, R142, R143; log 40). -/
def passBy (id : PortId) (s : State) : State :=
  if (pick 2 s).1 = 0 then complete id none (pick 2 s).2 else followAck id (pick 2 s).2

/-- A frame is abandoned: the port waits for the next idle gap (R126). -/
def abandon (id : PortId) (s : State) : State := onPort id (toWaiting id s) s

/-- A frame completes at a port that follows it. A header outside its values is abandoned (R126, R177; log 11).
At a port that follows none it is traffic: a frame that a Soft Restart has discarded is offered to no block
(R138; log 10). -/
def onFrame (id : PortId) (headerOk : Bool) (body : State → State) (s : State) : State :=
  if canReceive (port s id) then (if headerOk then body s else abandon id s) else hearTraffic id s

/-! ### Refusals and the hold (R129, R147) -/

/-- The Last Refusal record is replaced (R147). -/
def setRefusal (origin dst : Nat) (code : Option Nat) (reason : RefusalReason) (s : State) : State :=
  onRelay (fun r => { r with lastRefusal := some { origin := origin, dst := dst, code := code, reason := reason } }) s

/-- A frame to the own station is answered NAK-R, Not Managing (R22, R142, R143). -/
def refuseNotManaging (id : PortId) (src : Nat) (s : State) : State :=
  setRefusal src (ownStation s) none .notManaging (complete id (some .nakR) s)

/-- The Upstream Port enters Holding (R129). -/
def holdUpstream (s : State) : State :=
  { s with up := { s.up with line := .holding, gap := .busy, dominant := startMs s 1000, answer := none } }

/-- The Upstream Port releases its hold with an answer, whose byte is sent within one ack position of the release, the
port Holding until its stop bit (R129; log 56). Whether another station drives the line at the release, so that the byte
is not sent and the port enters Receiving, is free (R129, R149; log 20). A port that no longer holds sends nothing. -/
def releaseHold (a : Ack) (s : State) : State :=
  if s.up.line = .holding then
    let r := pick 2 s
    if r.1 = 0 then { r.2 with up := toAnswered .upstream a r.2 r.2.up }
    else { r.2 with up := { toWaiting .upstream r.2 r.2.up with answer := none } }
  else s

/-! ### Starting a try (R130, R133, R137) -/

/-- The line is free: the port is Idle with no try in progress on it, and the idle gap has elapsed (R125, R133,
R137). -/
def mayTransmit (p : Port) : Bool := p.line == .idle && p.gap == .elapsed && !(p.trying.any (·.onLine))

/-- A try begins at a port. -/
def startTry (id : PortId) (owner : Owner) (f : Frame) (s : State) : State :=
  onPort id
    (fun p =>
      { p with
        line := .transmitting, gap := .busy, dominant := .stopped
        trying := some { owner := owner, frame := f, onLine := true, orphan := false, hold := .stopped } })
    s

/-- A mark's try begins: the state code is written as it stands (R135). -/
def sendMark (index : Nat) (s : State) : State :=
  startTry .field .mark (markFrame s index) (onArb (fun a => { a with markWaiting := none, markOnLine := some index }) s)

/-- The relay frame's try begins; a record's phase becomes On Line (R148). -/
def sendRelay (x : SlotFrame) (s : State) : State :=
  startTry .field .relay x.frame
    (onRelay (fun r => { r with record := r.record.map (fun c => { c with onLine := true }) }) s)

/-- The Sequencer slot's claim: the in-flight frame due another try, else the pending frame (R36, R137). -/
def sequencerClaim (s : State) : Option InFlight :=
  match s.arb.inFlight, s.arb.pending with
  | some x, _ => some x
  | none, some p => some { frame := p, tries := 0 }
  | none, none => none

/-- The Sequencer slot is granted: a pending frame becomes the in-flight frame (R36). Its destination is the
Burner entry at its placing (R141); its source is the own station as it stands at each grant, which the spec
leaves open where page 0 is replaced in between (log 43). -/
def sendSet (x : InFlight) (s : State) : State :=
  startTry .field .sequencer (setFrame s x.frame)
    (onArb (fun a => { a with inFlight := some x, pending := if a.inFlight.isSome then a.pending else none }) s)

/-- The Frost queue's head is granted (R105). Its source is the own station as it stands at the grant, which the
spec leaves open where page 0 is replaced after the frame was queued (log 43). -/
def sendFrost (e : FrostEntry) (rest : List FrostEntry) (s : State) : State :=
  startTry .field .frost (frostFrame s e.station e.frame.code)
    (onArb (fun a => { a with frostQ := { e with inFlight := true } :: rest }) s)

/-- The first claimant in the order of R137 is granted. -/
def grantFirst (s : State) : State :=
  match sequencerClaim s, s.arb.markWaiting, s.arb.relaySlot, s.arb.frostQ with
  | some x, _, _, _ => sendSet x s
  | none, some i, _, _ => sendMark i s
  | none, none, some x, _ => sendRelay x s
  | none, none, none, e :: rest => if e.inFlight then s else sendFrost e rest s
  | none, none, none, [] => s

/-- A frame that lost arbitration is sent again, from the opener: a mark with its index and state code as
they stand, a relay frame as its slot holds it (R131, R135). A broadcast that has replaced the waiting one in the
Relay slot (R146) has its grant, as R135 gives for a mark; R146 does not say so (log 53). -/
def sendAgain (t : Try) (s : State) : State :=
  match t.owner with
  | .mark =>
    match s.arb.markWaiting with
    | some i => sendMark i s
    | none => onPort .field (fun p => { p with trying := none }) s
  | .relay =>
    match s.arb.relaySlot with
    | some x => sendRelay x s
    | none => onPort .field (fun p => { p with trying := none }) s
  | .sequencer => startTry .field .sequencer t.frame s
  | .frost => startTry .field .frost t.frame s
  | .utq => startTry .upstream .utq t.frame s

/-- The head of the UTQ is sent (R133, R152). -/
def sendHead (s : State) : State :=
  match s.relay.utq with
  | [] => s
  | e :: rest => startTry .upstream .utq e.frame (setUtq ({ e with onLine := true } :: rest) s)

/-! ### The end of a try (R37, R106, R130, R135, R149, R152) -/

/-- How a try ends (R128, R130). -/
inductive TryResult where
  | acked (adjusted : Bool)
  | refused (malformed : Bool)
  | failed
  | sent
deriving DecidableEq, Repr

/-- An ack character as a transmitter takes it (R128). -/
def resultOf (value : Byte) (stopGood : Bool) : TryResult :=
  if stopGood then
    match Ack.ofCode value.toNat with
    | some .ack => .acked false
    | some .ackA => .acked true
    | some .nakR => .refused false
    | some .nakM => .refused true
    | some .nakB | some .nakT | none => .failed
  else .failed

/-- An Output Set frame is given up (R37). A refused valve-closed frame starts the re-place timer also where a
valve-open set is already pending, though R38 lets the timer run for valve-closed sets alone: an expiry before
the pending set is acked places the current, valve-open set again (log 44). -/
def giveUpSet (x : InFlight) (s : State) : State :=
  let s1 := onArb (fun a => { a with inFlight := none }) s
  if x.frame.set.valve then decideNow (.failed .burnerNoAnswer) s1
  else latch [.fieldNoAnswer] (onSeq (fun q => { q with rePlace := startMs s 2000 }) s1)

/-- The end of an Output Set try (R37). -/
def sequencerResult (r : TryResult) (s : State) : State :=
  match s.arb.inFlight with
  | none => s
  | some x =>
    match r with
    | .acked _ => onArb (fun a => { a with inFlight := none }) s
    | .refused _ => giveUpSet x s
    | .failed =>
      if s.arb.pending.isSome then onArb (fun a => { a with inFlight := none }) s
      else if x.tries + 1 < 3 then onArb (fun a => { a with inFlight := some { x with tries := x.tries + 1 } }) s
      else giveUpSet x s
    | .sent => s

/-- The end of a mark's try; a mark not sent waits again, unless a newer one has fallen due (R135). -/
def markResult (r : TryResult) (s : State) : State :=
  match r with
  | .sent => onArb (fun a => { a with markOnLine := none }) s
  | .acked _ | .refused _ | .failed =>
    onArb (fun a => { a with markWaiting := a.markWaiting.or a.markOnLine, markOnLine := none }) s

/-- The relay answer: the frame leaves its slot, the record is removed and the hold released (R149). -/
def answerRelay (a : Ack) (s : State) : State :=
  releaseHold a (onRelay (fun r => { r with record := none }) (onArb (fun b => { b with relaySlot := none }) s))

/-- The end of a relay transaction's try (R149). -/
def recordResult (c : RelayRecord) (r : TryResult) (s : State) : State :=
  match r with
  | .acked adjusted => answerRelay (if adjusted || c.adjusted then .ackA else .ack) s
  | .refused malformed => answerRelay (if malformed then .nakM else .nakR) s
  | .failed =>
    if c.tries + 1 < 3 then
      onRelay (fun q => { q with record := some { c with tries := c.tries + 1, onLine := false } }) s
    else latch [.fieldNoAnswer] (answerRelay .nakT s)
  | .sent => s

/-- The end of a try of the Relay slot's frame. A frame whose answer has been given at the deadline leaves
the slot, its result discarded (R146, R149, R150). -/
def relayResult (r : TryResult) (s : State) : State :=
  match s.arb.relaySlot, s.relay.record with
  | none, _ => s
  | some x, record =>
    if x.late then onArb (fun b => { b with relaySlot := none }) s
    else if x.broadcast then
      (if r = .sent then onArb (fun b => { b with relaySlot := none }) s else s)
    else match record with
      | some c => recordResult c r s
      | none => onArb (fun b => { b with relaySlot := none }) s

/-- The end of a Frost queue try (R106). -/
def frostResult (r : TryResult) (s : State) : State :=
  match s.arb.frostQ with
  | [] => s
  | e :: rest =>
    let left := onArb (fun a => { a with frostQ := leaveEntry (e :: rest) }) s
    if e.inFlight then
      match r with
      | .acked _ => frostDelivered e.station e.frame left
      | .refused _ => frostLost e.station e.frame left
      | .failed =>
        if e.successor.isSome then left
        else if e.tries + 1 < 3 then
          onArb (fun a => { a with frostQ := { e with tries := e.tries + 1, inFlight := false } :: rest }) s
        else latch [.fieldNoAnswer] (frostLost e.station e.frame left)
      | .sent => s
    else s

/-- The end of a try of the UTQ's head (R152). -/
def utqResult (r : TryResult) (s : State) : State :=
  match s.relay.utq with
  | [] => s
  | e :: rest =>
    if r = .sent ∧ e.renewed = false then setUtq rest s
    else setUtq ({ e with onLine := false, renewed := false } :: rest) s

/-- The result of a try goes to the frame's owner, unless it is discarded (R38, R130). -/
def ownerResult (t : Try) (r : TryResult) (s : State) : State :=
  if t.orphan then s
  else match t.owner with
    | .sequencer => sequencerResult r s
    | .mark => markResult r s
    | .relay => relayResult r s
    | .frost => frostResult r s
    | .utq => utqResult r s

/-- A try on the line ends: the port leaves it by `after`, and its owner is told (R130). -/
def endTry (id : PortId) (t : Try) (after : Port → Port) (r : TryResult) (s : State) : State :=
  ownerResult t r (onPort id (fun p => { after p with trying := none }) s)

/-- The try on the line at a port. -/
def tryOnLine (p : Port) : Option Try := p.trying.filter (·.onLine)

/-- A field try in its ack position or its hold: a frame that needs an ack (R128, R130). -/
def ackedTry (s : State) : Option Try := (tryOnLine s.field).filter (fun t => t.frame.needsAck)

/-- The Relay slot's frame has been answered at its deadline (R150). -/
def slotLate (s : State) : Bool := s.arb.relaySlot.any (·.late)

/-- A loss of arbitration is no result: the frame waits to be sent again (R131). A mark that lost waits in
its slot, unless a newer one does (R135). A frame whose result is discarded is not sent again, and neither is
a relay frame past its deadline (R38, R150; log 21). -/
def loseArbitration (id : PortId) (t : Try) (s : State) : State :=
  let wait (keep : Option Try) :=
    onPort id (fun p => { p with line := .receiving, gap := .busy, dominant := .stopped, trying := keep })
  if t.orphan then wait none s
  else match t.owner with
    | .mark => markResult .failed (wait (some { t with onLine := false }) s)
    | .relay =>
      if slotLate s then onArb (fun b => { b with relaySlot := none }) (wait none s)
      else wait (some { t with onLine := false }) s
    | .sequencer | .frost | .utq => wait (some { t with onLine := false }) s

/-- The count of dominant time allows that 1 s is exceeded: it has reached 1 s, or no command has told when the
line became dominant (R134; log 41). -/
def dominantLong (p : Port) (now : Nat) : Bool := !p.dominant.isRunning || p.dominant.due now

/-- A port enters Stuck: a try in progress ends as failed, on the line or waiting to be sent again after a lost
arbitration, which has not ended it (R131, R134, R148). -/
def enterStuck (id : PortId) (s : State) : State :=
  let s1 := onPort id (fun p => { p with line := .stuck, gap := .busy, dominant := .stopped, trying := none }) s
  match (port s id).trying with
  | none => latch [.lineStuck] s1
  | some t => inEitherOrder (latch [.lineStuck]) (ownerResult t .failed) s1

/-! ### Placing a command in the Relay slot (R146, R148) -/

/-- The Relay slot's frame is on the line. -/
def relayOnLine (s : State) : Bool := s.field.trying.any (fun t => t.owner == .relay && t.onLine && !t.orphan)

/-- A frame is placed in the Relay slot. Where the slot still holds a frame answered at its deadline, the
new frame takes its place and the old try's result is discarded (log 19). -/
def placeRelay (f : Frame) (broadcast : Bool) (s : State) : State :=
  let s1 := onArb (fun a => { a with relaySlot := some { frame := f, broadcast := broadcast, late := false } }) s
  if slotLate s then
    onPort .field
      (fun p => { p with trying := p.trying.map (fun t => if t.owner = .relay then { t with orphan := true } else t) })
      s1
  else s1

/-- A command passes: the relay transaction begins (R148). -/
def beginRelay (f : Frame) (adjusted : Bool) (s : State) : State :=
  let record : RelayRecord :=
    { dst := f.dst, frame := f, adjusted := adjusted, tries := 0, onLine := false, deadline := startMs s 300 }
  placeRelay f false (holdUpstream (onRelay (fun r => { r with record := some record }) s))

/-- The relay deadline expires (R150). -/
def relayLate (c : RelayRecord) (s : State) : State :=
  let s1 := onRelay (fun r => { r with record := none }) s
  let s2 :=
    if c.onLine && relayOnLine s then
      onArb (fun a => { a with relaySlot := a.relaySlot.map (fun x => { x with late := true }) }) s1
    else
      onArb (fun a => { a with relaySlot := none })
        (onPort .field
          (fun p => { p with trying := p.trying.filter (fun t => !(t.owner == .relay && !t.onLine)) }) s1)
  latch [.relayTimeout] (releaseHold .nakT s2)

end Sys2Proof.Machine
end

