-- ==== Sys2Proof/Machine/Management.lean ====
section
/-! DEFINITION. The Management Unit: the mailbox, the responses and their data, page transfer (R168 to R173,
R179). -/

namespace Sys2Proof.Machine

/-! ### The mailbox (R168) -/

/-- Command codes (R179). -/
def codeStat : Nat := 0x01
/-- CHAN. -/
def codeChan : Nat := 0x02
/-- ATTR. -/
def codeAttr : Nat := 0x03
/-- EVNT. -/
def codeEvnt : Nat := 0x04
/-- AMSK. -/
def codeAmsk : Nat := 0x05
/-- OPEN. -/
def codeOpen : Nat := 0x06
/-- CHNK. -/
def codeChnk : Nat := 0x07
/-- FLSH. -/
def codeFlsh : Nat := 0x08
/-- ERAS. -/
def codeEras : Nat := 0x09
/-- RLCK. -/
def codeRlck : Nat := 0x0A
/-- CLRH. -/
def codeClrh : Nat := 0x0B
/-- RFSL. -/
def codeRfsl : Nat := 0x0C
/-- SRST. -/
def codeSrst : Nat := 0x0D
/-- FRST. -/
def codeFrst : Nat := 0x0E

/-- An MRS of a command: status, reason and data (R168, chapter 12.3). -/
def responseFrame (s : State) (code : Nat) (st : Status) (data : List Byte) : Frame :=
  { dst := managingStation s, src := ownStation s, kind := .mrs, sub := 0
    payload := [byteOf code, byteOf st.code, byteOf st.reasonCode] ++ data }

/-- The MRS is offered and the mailbox enters Answering (R168). -/
def respond (code : Nat) (st : Status) (data : List Byte) (s : State) : State :=
  offer (responseFrame s code st data) (onMgmt (fun m => { m with mailbox := .answering }) s)

/-- A valid MRQ from the managing station: NAK-B unless the mailbox is Empty; a malformed one NAK-M; else
ACK, and the command begins (R168). -/
def request (wellFormed : Bool) (body : State → State) (s : State) : State :=
  onFrame .upstream true
    (fun s =>
      if s.mgmt.mailbox = .empty then
        if wellFormed then body (onMgmt (fun m => { m with mailbox := .executing }) (complete .upstream (some .ack) s))
        else complete .upstream (some .nakM) s
      else complete .upstream (some .nakB) s)
    s

/-! ### The data of the reading commands (R169, R179) -/

/-- Mailbox codes (R179, STAT). -/
def Mailbox.code : Mailbox → Nat
  | .empty => 0 | .executing => 1 | .answering => 2

/-- Transfer state codes (R179, STAT). -/
def Transfer.code : Transfer → Nat
  | .closed => 0 | .loading _ _ _ => 1 | .writing _ _ => 2 | .fetching _ _ _ => 3

/-- The data of STAT (R179). The layouts say nothing of the bits of bytes 1 and 14 that have no field: 0 (log 55). -/
def statData (s : State) : List Byte :=
  [byteOf s.seq.sup.code,
    byteOf (flag 0 s.demand.heatCall + flag 1 s.frost.boilerCall + flag 2 s.frost.zoneCall + 16 * s.demand.state.code),
    byteOf (s.demand.level.getD 0)]
    ++ optInt16 s.demand.target ++ [byteOf s.seq.failCount] ++ zoneBytesShown s ++ eventBytes s
    ++ [byteOf (conditions s), byteOf (summariesHeld s),
      byteOf (64 * s.mgmt.mailbox.code + s.mgmt.transfer.code),
      byteOf ((s.mgmt.lastReject.map RejectReason.code).getD 0)]

/-- The `n` bytes from byte `i` on of items that are marked as absent: free (log 18). -/
def absentBytes (s : State) (i n : Nat) : List Byte := (List.range n).map (fun j => Config.freeAbsent s.freeIndex (i + j))

/-- The data of CHAN for channel `k` (R179): times in whole 0.1 s (log 17); absent items are free (log 18), and bits
without a field are 0 (log 55). -/
def chanData (s : State) (k : Fin 14) : List Byte :=
  let c := chan s k
  [byteOf k.val,
    byteOf (c.state.code + flag 4 c.reading.isSome + flag 5 c.lastTime.isSome + flag 6 c.timer.isRunning),
    byteOf c.count]
    ++ (match c.reading with
      | some r => int16 r.v ++ int16 r.f ++ int24 r.acc
      | none => absentBytes s 0 7)
    ++ (match c.lastTime with
      | some t => word16 (saturate 65535 ((s.now - t) / 100))
      | none => absentBytes s 7 2)
    ++ (if c.timer.isRunning then word16 (saturate 65535 (c.timer.left s.now / 100)) else absentBytes s 9 2)

/-- Whole seconds since a time as ATTR shows them; what it shows above 65535 s is not stated (log 17). -/
def secondsShown (s : State) (which since : Nat) : List Byte :=
  if (s.now - since) / 1000 ≤ 65535 then word16 ((s.now - since) / 1000)
  else word16 (Config.freeSeconds (2 * s.freeIndex + which)).toNat

/-- The data of ATTR (R179): part 0 or part 1 of the Attempt Record, or the marker for none. The reason is 0 while there
is none (log 54). -/
def attrData (s : State) (part : Nat) : List Byte :=
  match s.seq.attempt with
  | none => [byteOf part]
  | some a =>
    let optional : List (Option Int) :=
      [a.outdoor, a.oilLine, a.preheat.map Int.ofNat, a.suction, a.diverterBase, a.flueBase]
    if part = 0 then
      [byteOf 0x80] ++ word16 a.sequence
        ++ [byteOf (16 * a.phase.code + a.furthest.code),
          byteOf (flag 0 (a.cause == .frost) + flag 1 a.proof
            + (List.range 6).foldl (fun n i => n + flag (i + 2) ((optional.getD i none).isSome)) 0),
          byteOf ((a.outcome.map AttemptEnd.code).getD 0), byteOf ((a.outcome.map AttemptEnd.reasonCode).getD 0)]
        ++ secondsShown s 0 a.start ++ secondsShown s 1 a.phaseEntry
    else [byteOf (0x80 + part)] ++ (optional.map optInt16).flatten

/-- The data of RFSL (R179): the record, or its marker for none; absent items are free (log 18), and bits without a
field are 0 (log 55). -/
def rfslData (s : State) : List Byte :=
  match s.relay.lastRefusal with
  | some r =>
    [byteOf (flag 0 true + flag 1 r.code.isSome), byteOf r.origin, byteOf r.dst]
      ++ (match r.code with
        | some c => [byteOf c]
        | none => absentBytes s 2 1)
      ++ [byteOf r.reason.code]
  | none => [0] ++ absentBytes s 0 4

/-! ### Page transfer (R170 to R172) -/

/-- The transfer's state, with its idle timer: running in Loading and Fetching (R170). -/
def setTransfer (t : Transfer) (s : State) : State :=
  onMgmt
    (fun m =>
      { m with
        transfer := t
        idle := match t with
          | .loading _ _ _ | .fetching _ _ _ => startSec s 10
          | .closed | .writing _ _ => .stopped })
    s

/-- The transfer closes; a held identity is discarded with it (R159, R170). -/
def closeTransfer (s : State) : State := onStore (fun t => { t with heldIdentity := none }) (setTransfer .closed s)

/-- A page of a Load has ended with Done: the next one, or Closed (R171). -/
def endLoadedPage (p left : Nat) (s : State) : State :=
  if left = 0 then closeTransfer s else setTransfer (.loading (p + 1) 0 (left - 1)) s

/-- A page of a Fetch has ended: the next one, or Closed (R171). -/
def endFetchedPage (p left : Nat) (s : State) : State :=
  if left = 0 then closeTransfer s else setTransfer (.fetching (p + 1) 0 (left - 1)) s

/-- The bytes of a chunk: 16, and 14 in chunk 3 (section 11.3). -/
def chunkSize (index : Nat) : Nat := if index = 3 then 14 else 16

/-- The data of a fetched chunk: its index with the factory flag, and its bytes (R179). -/
def chunkData (index : Nat) (factory : Bool) (buffer : Content) : List Byte :=
  [byteOf (index + flag 7 factory)] ++ slice buffer (16 * index) (chunkSize index)

/-- A chunk's data laid into the page buffer (R171). -/
def loadChunk (index : Nat) (data : List Byte) (s : State) : State :=
  onMgmt (fun m => { m with buffer := splice m.buffer (16 * index) data }) s

/-- A Load is turned down at its chunk 3: answered, and closed (R171). -/
def turnDown (st : Status) (s : State) : State := respond codeChnk st [] (closeTransfer s)

/-- A content is rejected: Page Rejected is latched and the answer given (R157). -/
def answerRejected (code : Nat) (r : RejectReason) (s : State) : State :=
  inEitherOrder (rejectPage r) (respond code (.rejected r) []) s

/-- A write is accepted and becomes the pending management access (R157, R160). -/
def acceptWrite (p left : Nat) (claim : MgmtClaim) (s : State) : State :=
  onStore (fun t => { t with mgmtClaim := some claim }) (setTransfer (.writing p left) s)

/-- Page 0 of a pair passes without being written: it is held, and answered Done (R159). -/
def holdIdentity (left : Nat) (s : State) : State :=
  respond codeChnk .done [3]
    (setTransfer (.loading 1 0 (left - 1)) (onStore (fun t => { t with heldIdentity := some s.mgmt.buffer }) s))

/-- A loaded page is judged by the Table Store (R157 to R159, R171). -/
def judgeLoad (p left : Nat) (s : State) : State :=
  match judgeAccess p s with
  | some st => turnDown st s
  | none =>
    let s1 := beforeValidation s
    let held := if p = 1 then s1.store.heldIdentity else none
    let pair := p == 0 && 1 ≤ left
    let tests :=
      if pair then pairTests s1.mgmt.buffer else failedTests p (pagesWith s1 p s1.mgmt.buffer held)
    match rejection tests s1 with
    | (some r, s2) => answerRejected codeChnk r (closeTransfer s2)
    | (none, s2) =>
      if pair then holdIdentity left s2
      else if held.isSome then acceptWrite p left (.write 0 .first) s2
      else acceptWrite p left (.write p .single) s2

/-- A CHNK in Loading (R171). -/
def chunkLoading (p chunk left index : Nat) (data : List Byte) (s : State) : State :=
  if index ≠ chunk ∨ data.length ≠ chunkSize chunk then respond codeChnk .wrongOrder [] s
  else if chunk < 3 then
    respond codeChnk .done [byteOf index] (setTransfer (.loading p (chunk + 1) left) (loadChunk index data s))
  else judgeLoad p left (loadChunk index data s)

/-- A CHNK in Fetching (R171). Chunk 0 waits for the read of its page; like every CHNK judged in the open
transfer it restarts the idle timer at once (R172), and the read's completion restarts it again (R171). -/
def chunkFetching (p chunk left index : Nat) (data : List Byte) (s : State) : State :=
  if index ≠ chunk ∨ data ≠ [] then respond codeChnk .wrongOrder [] s
  else if chunk = 0 then onStore (fun t => { t with mgmtClaim := some (.fetch p) }) (setTransfer (.fetching p 0 left) s)
  else
    respond codeChnk .done (chunkData index s.mgmt.fetchFactory s.mgmt.buffer)
      (if chunk = 3 then endFetchedPage p left s else setTransfer (.fetching p (chunk + 1) left) s)

/-- A CHNK (R171). In Writing the mailbox is Executing, so none is accepted there (log 28). -/
def chunkRequest (index : Nat) (data : List Byte) (s : State) : State :=
  match s.mgmt.transfer with
  | .closed => respond codeChnk .noTransfer [] s
  | .loading p chunk left => chunkLoading p chunk left index data s
  | .fetching p chunk left => chunkFetching p chunk left index data s
  | .writing _ _ => respond codeChnk .wrongOrder [] s

/-- OPEN is Out Of Range (R170, R179). -/
def openOutOfRange (direction first count : Nat) : Bool :=
  2 ≤ direction || 16 ≤ count || (direction == 0 && 14 ≤ first + count) || (direction == 1 && 21 ≤ first + count)

/-- OPEN (R170). -/
def openRequest (direction first count : Nat) (s : State) : State :=
  if openOutOfRange direction first count then respond codeOpen .outOfRange [] s
  else
    respond codeOpen .done []
      (setTransfer (if direction = 0 then .loading first 0 count else .fetching first 0 count) (closeTransfer s))

/-- ERAS of a page 0 to 13 (R157, R162). -/
def eraseRequest (p : Nat) (s : State) : State :=
  match judgeAccess p s with
  | some st => respond codeEras st [] s
  | none =>
    let s1 := beforeValidation s
    match rejection (failedTests p (pagesWith s1 p (factoryOf s1 p).content none)) s1 with
    | (some r, s2) => answerRejected codeEras r s2
    | (none, s2) => onStore (fun t => { t with mgmtClaim := some (.erase p) }) s2

/-- A write has ended with Done: it is answered, and the transfer moves on (R161, R171). The transfer is
Writing (log 28). -/
def answerWritten (s : State) : State :=
  let s1 := respond codeChnk .done [3] s
  match s.mgmt.transfer with
  | .writing p left => endLoadedPage p left s1
  | .closed | .loading _ _ _ | .fetching _ _ _ => s1

/-- The read of chunk 0 has completed (R171). A transfer that the idle timer has closed meanwhile stays
closed (log 24). -/
def answerFetched (p : Nat) (s : State) : State :=
  let f := fetched s p
  let s1 := onMgmt (fun m => { m with buffer := f.1, fetchFactory := f.2 }) s
  let s2 := match s.mgmt.transfer with
    | .fetching q _ left => setTransfer (.fetching q 1 left) s1
    | .closed | .loading _ _ _ | .writing _ _ => s1
  respond codeChnk .done (chunkData 0 f.2 f.1) s2

/-! ### RLCK and CLRH (R118, R123) -/

/-- An accepted reset: the record is cleared, an entry of age 0 appended, LOCK left; Done waits for the
write of page 14 (R118). -/
def acceptReset (s : State) : State :=
  leaveLock
    (onMgmt (fun m => { m with wait := .rlck })
      (changeLock (fun l => { l with locked := false, reason := none, sequence := none, resets := l.resets ++ [0] }) s))

/-- RLCK (R118). -/
def resetRequest (s : State) : State :=
  if s.seq.sup ≠ .lock then respond codeRlck .notLocked [] s
  else if 3 ≤ (lockPage s).resets.length then
    inEitherOrder (latch [.resetRefused]) (respond codeRlck .resetLimit []) s
  else acceptReset s

/-- CLRH (R123). -/
def clearRequest (s : State) : State :=
  onMgmt (fun m => { m with wait := .clrh [15, 16, 17, 18] }) (emptyHistory s)

/-- A record write that a wait can count has completed (R118, R123). -/
def recordWritten (p : Nat) (s : State) : State :=
  match s.mgmt.wait with
  | .nothing => s
  | .rlck => if p = 14 then respond codeRlck .done [] (onMgmt (fun m => { m with wait := .nothing }) s) else s
  | .clrh left =>
    if left.erase p = [] then respond codeClrh .done [] (onMgmt (fun m => { m with wait := .nothing }) s)
    else onMgmt (fun m => { m with wait := .clrh (left.erase p) }) s

end Sys2Proof.Machine
end

