-- ==== Sys2Proof/Machine/Restart.lean ====
section
/-! DEFINITION. The restarts: the start of power-up and Full Restart, the loss of power, Soft Restart (R3,
R21, R64, R97, R113, R116, R137, R138, R156, R159, R166, R175, R176). -/

namespace Sys2Proof.Machine

/-! ### Loss of power (R166) -/

/-- The stored page an operation in flight leaves invalid (R166). -/
def StoreOp.spoils : StoreOp → Option Nat
  | .recordWrite p _ _ | .repair p _ | .write p _ _ | .erase p => some p
  | .check _ | .fetch _ => none

/-- The stored pages after a loss of power (R166). -/
def storedAfterLoss (s : State) : Vector Image 21 :=
  match s.store.op.bind StoreOp.spoils with
  | some p => s.store.stored.setIfInBounds p (Image.invalid (storedOf s p).content)
  | none => s.store.stored

/-- The part with nothing in its volatile memory: contacts at rest, no timer running (log 7). Its queue,
its free order, the link and the store are those of `s`. -/
def blankOf (s : State) : State :=
  let port : Port := { line := .idle, gap := .busy, dominant := .stopped, answer := none, trying := none }
  { State.reset with
    now := 0, powered := false, link := s.link, up := port, field := port
    cyc := { timer := .stopped, index := 0, silence := .stopped }
    arb := { State.reset.arb with pending := none }
    relay := { State.reset.relay with report := .stopped }
    chans := Vector.replicate 14 Channel.unboundRecord
    demand := { State.reset.demand with rate := 0 }
    lock := { factoryFault := false, minute := .stopped }
    store := { State.reset.store with stored := s.store.stored, factory := s.store.factory, sweepTimer := .stopped }
    order := s.order, freeIndex := s.freeIndex, pending := s.pending }

/-- The supply is lost (R166; log 7). -/
def losePower (s : State) : State := blankOf { s with store := { s.store with stored := storedAfterLoss s } }

/-! ### Ports at a restart (R125, R138) -/

/-- Another station keeps the port's line dominant: Stuck, past the hold limit, or within a hold. -/
def heldDominant (p : Port) : Bool :=
  p.line == .stuck || p.gap == .held || p.trying.any (fun t => t.onLine && t.hold.isRunning)

/-- A frame that needs an ack is on the line: the addressed station may still drive its ack position (R128, R138). -/
def mayBeAnswered (p : Port) : Bool := p.trying.any (fun t => t.onLine && t.frame.needsAck)

/-- An Idle port whose idle gap begins now; a line that was in use until a later time stays so until then. An ack byte
of the part's own, which is no try, is sent to its end (R129, R138; log 56). -/
def toIdleAfterUse (s : State) (p : Port) : Port :=
  match p.gap with
  | .running d => { toIdle s p with gap := .running (max d (s.now + gapMs)) }
  | .answering d => { toIdle s p with gap := .running (max d s.now + gapMs) }
  | .busy | .held | .elapsed => toIdle s p

/-- A port returns to Idle at Soft Restart (R138). A frame it receives, and the ack position of a try that is cut
short, go on as traffic of other stations for a time no command tells (log 40); on a line still held dominant the
idle gap has to wait for the release, and a Stuck port counts its dominant time anew (log 41). -/
def portRestart (id : PortId) (s : State) (p : Port) : Port :=
  if heldDominant p then
    { p with line := .idle, gap := .held, dominant := if p.line = .stuck then startMs s 1000 else p.dominant }
  else if canReceive p || mayBeAnswered p then { toWaiting id s p with line := .idle }
  else toIdleAfterUse s p

/-- A port at Full Restart: Idle with no try in progress and its dominant time counted anew, as at power-up. The
restart leaves the line as it was, and it is free once the port has seen the idle gap (R125, R138; log 40, 41). -/
def portAnew (id : PortId) (s : State) (p : Port) : Port :=
  { portRestart id s p with
    dominant := if heldDominant p then startMs s 1000 else .stopped, answer := none, trying := none }

/-! ### The start (R116, R156) -/

/-- Installer pages 0 and 1 are both valid and do not match each other (R159). -/
def pairBroken (s : State) : Bool :=
  (storedOf s 0).ok && (storedOf s 1).ok && !mapMatches (storedOf s 0).content (storedOf s 1).content

/-- The working copy a page is loaded with (R116, R156, R159). -/
def loadedCopy (s : State) (p : Nat) : Copy :=
  if p < 14 then
    if p < 2 && pairBroken s then Copy.sound (factoryOf s p).content .factory else fromStore s p
  else if p = 14 then
    if (storedOf s 14).ok then Copy.sound (storedOf s 14).content .record
    else Copy.sound (encodeLock LockPage.recordLost) .record
  else if p < 19 then
    Copy.sound (if (storedOf s 14).ok && (storedOf s p).ok then (storedOf s p).content else zeroContent) .record
  else Copy.sound (storedOf s p).content .factory

/-- Every page of the factory image is valid (R116). -/
def factoryWhole (s : State) : Bool :=
  (List.range 14).all (fun p => (factoryOf s p).ok) && (storedOf s 19).ok && (storedOf s 20).ok

/-- The record pages written back at the start (R116). -/
def writtenBack (s : State) : List Nat :=
  if (storedOf s 14).ok then [15, 16, 17, 18].filter (fun p => !(storedOf s p).ok) else [14, 15, 16, 17, 18]

/-- The events a start latches, together (R116, R159). -/
def startEvents (s : State) : EventSet :=
  (if (storedOf s 14).ok then 0 else eventsOf [.storeFault, .lockoutEntered])
    ||| (if (writtenBack s).isEmpty then 0 else Event.storeFault.only)
    ||| (if pairBroken s then Event.storeFault.only else 0)

/-- The supervisor state a start leaves (R116). -/
def startState (s : State) : SupState :=
  if !(storedOf s 14).ok || (decodeLock (storedOf s 14).content).locked then .lock
  else if factoryWhole s then .stby else .flck

/-- The Table Store after the loading (R156). -/
def loadedStore (s : State) : Store :=
  { stored := s.store.stored, factory := s.store.factory, copies := Vector.ofFn (fun i : Fin 21 => loadedCopy s i.val)
    op := none, portTimer := .stopped, pendingRec := writtenBack s, sweepClaim := none, mgmtClaim := none, sweepPos := 0
    sweepTimer := startSec s 5, heldIdentity := none }

/-- Every block at its start values, at powered time `now`, with the copies loaded, and the two ports as they come
out of the start (R3, R21, R97, R113, R125, R137, R152, R153, R168, R170, R173, R174). -/
def startBlocks (now : Nat) (up field : Port) (s0 : State) : State :=
  let s : State :=
    { State.reset with
      now := now, link := s0.link, store := loadedStore { s0 with now := now }
      order := s0.order, freeIndex := s0.freeIndex, pending := s0.pending }
  { s with
    up := up
    field := field
    cyc := { timer := startMs s 250, index := 0, silence := startMs s 5000 }
    relay := { s.relay with report := startMs s 2000 }
    chans := Vector.ofFn (fun k : Fin 14 => reboundChannel now (bindingOf s k) Channel.unboundRecord)
    demand := { s.demand with rate := clampNat (schedule s).lowFire (schedule s).highFire (schedule s).lowFire }
    frost :=
      { boilerCall := false, zoneCall := false
        zones := Vector.ofFn (fun z : Fin 6 => startZone z s) }
    lock := { factoryFault := !factoryWhole s0, minute := startSec s 60 } }

/-- The Sequencer at the start: its state's set is current and pending (R64, R137). -/
def startSequencer (st : SupState) (s : State) : State :=
  let s1 := { s with seq := { s.seq with sup := st, lkl := st.lamp } }
  placeSet (calledSet s1) s1

/-- The start of power-up and of Full Restart (R116, R156, R176). -/
def start (now : Nat) (up field : Port) (s : State) : State :=
  latchSet (startEvents s) (startSequencer (startState s) (startBlocks now up field s))

/-- The start of power-up: powered time begins anew, and the ports have seen nothing of their lines (R2, R125;
log 8, 40). -/
def startCold (s : State) : State := start 0 (Port.quietUntil gapMs) (Port.quietUntil gapMs) s

/-- Power-up; while powered, the loss comes first (log 7). -/
def powerUp (s : State) : State := startCold (if s.powered then losePower s else s)

/-- Full Restart: the start with powered time running on (log 8) and the lines as they are (R125, R176). -/
def startAgain (s : State) : State :=
  renewOrder (start s.now (portAnew .upstream s s.up) (portAnew .field s s.field) s)

/-! ### Soft Restart (R64, R113, R138, R175) -/

/-- The try that Soft Restart cuts short at the Field Port ends as no ack; the Relay slot and the Frost
queue have been emptied (R138). -/
def cutShort (t : Option Try) (s : State) : State :=
  match t with
  | some t =>
    if t.onLine && !t.orphan then
      match t.owner with
      | .sequencer => sequencerResult .failed s
      | .mark => markResult .failed s
      | .relay | .frost | .utq => s
    else s
  | none => s

/-- A try that waits after a lost arbitration is kept with its frame in the Sequencer slot and the Mark
slot (R138; log 21). -/
def keptTry (t : Try) : Bool := !t.onLine && (t.owner == .sequencer || t.owner == .mark)

/-- Both ports return to Idle (R138). A try on the line is cut short, also one whose frame the Frost queue has
just lost, which R137 has run to its end on the line: R138 says what Soft Restart does (log 45). -/
def portsToIdle (s : State) : State :=
  { s with
    up := { portRestart .upstream s s.up with trying := none }
    field := { portRestart .field s s.field with trying := s.field.trying.filter keptTry } }

/-- The event set is cleared (R175). -/
def clearEvents (s : State) : State := onMgmt (fun m => { m with events := 0 }) s

/-- What Soft Restart empties and closes (R113, R152, R153, R175). -/
def softEmpty (s : State) : State :=
  let s1 := emptyFrostQueue (onArb (fun a => { a with relaySlot := none }) s)
  let s2 := onRelay (fun _ => { record := none, utq := [], lastRefusal := none, report := startMs s 2000 }) s1
  closeTransfer (onMgmt (fun m => { m with mailbox := .empty, wait := .nothing, restart := .nothing }) s2)

/-- Soft Restart takes effect. The queue upstream is emptied first, so that an alert which the cut try raises
stays queued; whether the cut try is answered before or after the event set is cleared is free (log 22). -/
def softRestart (s : State) : State :=
  inEitherOrder clearEvents (cutShort s.field.trying) (portsToIdle (softEmpty s))

/-- An MRS has been sent (R152, R168, R175, R176). -/
def responseSent (s : State) : State :=
  match s.mgmt.restart with
  | .nothing => onMgmt (fun m => { m with mailbox := .empty }) s
  | .softAsked => softRestart s
  | .fullAsked | .fullArmed => onMgmt (fun m => { m with restart := .fullArmed }) s

end Sys2Proof.Machine
end

