-- ==== Sys2Proof/Machine/Supply.lean ====
section
/-! DEFINITION. POWER_UP, POWER_LOSS, LOCAL_RESET_PUSH, COMMISSIONING_LINK_CHANGE, FULL_RESTART_EFFECT. -/

namespace Sys2Proof.Machine

/-- POWER_UP (R116, R156): the copies are loaded, every block is set to its start values, and the Lockout
Unit decides STBY, LOCK or FLCK. While powered, the loss comes first (log 7). -/
def execPowerUp (s : State) : Host.Outcome State Fault Refusal := .next (powerUp s)

/-- POWER_LOSS (R166). -/
def execPowerLoss (s : State) : Host.Outcome State Fault Refusal := act losePower s

/-- LOCAL_RESET_PUSH (R119): acts in LOCK alone; the reset list is not judged and gets no entry. -/
def execLocalResetPush (s : State) : Host.Outcome State Fault Refusal :=
  react
    (fun s =>
      if s.seq.sup = .lock then
        leaveLock (changeLock (fun l => { l with locked := false, reason := none, sequence := none }) s)
      else s)
    s

/-- COMMISSIONING_LINK_CHANGE (R157, R173): the jumper is fitted or removed, powered or not. -/
def execCommissioningLinkChange (fitted : Bool) (s : State) : Host.Outcome State Fault Refusal :=
  .next { s with link := fitted }

/-- FULL_RESTART_EFFECT (R176): once FRST is armed, no store operation is in flight and no record write is
pending, every block is set as at power-up and the store keeps its contents. Powered time runs on (log 8), and a
line that is in use stays in use (R125). -/
def execFullRestartEffect (s : State) : Host.Outcome State Fault Refusal :=
  act
    (fun s =>
      if s.mgmt.restart = .fullArmed ∧ s.store.op = none ∧ s.store.pendingRec = [] then startAgain s else s)
    s

end Sys2Proof.Machine
end

