-- ==== Sys2Proof/Machine/Samples.lean ====
section
/-! DEFINITION. SAMPLE_FRAME, FRESHNESS_EXPIRY, DEMAND_FRAME, DEMAND_TIMER_EXPIRY. -/

namespace Sys2Proof.Machine

/-- The channels an offered sample frame feeds (R5, R6). -/
def fedChannels (s : State) (src sampleSet : Nat) (payload : List Byte) : List (Fin 14) :=
  (List.finRange 14).filter (fun k => (bindingOf s k).any (fun b => frameMatches b src sampleSet payload))

/-- SAMPLE_FRAME (R5, R142, R143): a valid SMP completes at a port. It is offered to every matching
channel, and from the field segment it is queued upstream as well. -/
def execSampleFrame (id : PortId) (dst src sampleSet : Nat) (payload : List Byte) (s : State) :
    Host.Outcome State Fault Refusal :=
  react
    (onFrame id (Instr.sampleFrame id dst src sampleSet payload).wellFormed
      (fun s =>
        reactTo
          ((fedChannels s src sampleSet payload).map (fun k => Task.sample k payload)
            ++ (match id with
              | .field => [.forward dst src sampleSet payload]
              | .upstream => []))
          (complete id none s)))
    s

/-- The freshness timer of a channel expires (R14). -/
def expireFreshness (k : Fin 14) (s : State) : State :=
  let c := chan s k
  match c.state with
  | .awaiting | .fresh | .limited =>
    reactTo (readers k none) (latch [.channelStale] (setChan k { c with state := .stale, timer := .stopped } s))
  | .unbound | .stale | .faulted => setChan k { c with timer := .stopped } s

/-- FRESHNESS_EXPIRY (R14). -/
def execFreshnessExpiry (k : Fin 14) (s : State) : Host.Outcome State Fault Refusal :=
  react (fun s => whenDue (chan s k).timer (expireFreshness k) s) s

/-- DEMAND_FRAME (R22, R23): a valid DMD to the own station on the upstream segment, judged by its source
and then by its length. -/
def execDemandFrame (src : Nat) (payload : List Byte) (s : State) : Host.Outcome State Fault Refusal :=
  react
    (onFrame .upstream (Instr.demandFrame src payload).wellFormed
      (fun s =>
        if src ≠ managingStation s then refuseNotManaging .upstream src s
        else if payload.length ≠ 3 then complete .upstream (some .nakM) s
        else demandEvent (acceptDemand payload (complete .upstream (some (demandAnswer s payload)) s))))
    s

/-- The demand timer expires: a Live record becomes Stale (R24). -/
def expireDemand (s : State) : State :=
  let s1 := onDemand (fun d => { d with timer := .stopped }) s
  if s.demand.state = .live then
    inEitherOrder (latch [.demandStale]) demandEvent (onDemand (fun d => { d with state := .stale }) s1)
  else s1

/-- DEMAND_TIMER_EXPIRY (R24). -/
def execDemandTimerExpiry (s : State) : Host.Outcome State Fault Refusal :=
  react (fun s => whenDue s.demand.timer expireDemand s) s

end Sys2Proof.Machine
end

