-- ==== Sys2Proof/Machine/SequencerTimers.lean ====
section
/-! DEFINITION. The expiries of the Firing Sequencer's and the Flue Check Unit's timers. Each acts in the
state its timer belongs to, once the timer is due (log 3). -/

namespace Sys2Proof.Machine

/-- An expiry of a state's timer: the timer stops and `f` follows. -/
def stateExpiry (st : SupState) (timer : PhaseTimers → Timer) (f : State → State) (s : State) :
    Host.Outcome State Fault Refusal :=
  react (fun s => if s.seq.sup = st then whenDue (timer s.seq.timers) f s else s) s

/-- The outcome at the CHEK maximum (R44), with the flame-clear mark as it stands at the expiry (R43). -/
def chekOutcome (s : State) : AttemptEnd :=
  if s.seq.flameClear = false then .lockout .falseFlame
  else if !(isUsable s cFlame && isUsable s cWater && isUsable s cFlue && isUsable s cDraught) then
    .notCounted .sensorNotReady
  else if holdsF s cDraught (fun f => (limits s).reverseLimit < f) then .notCounted .downdraught
  else .notCounted .checkNotMet

/-- CHEK_MAXIMUM_EXPIRY (R44). -/
def execChekMaximumExpiry (s : State) : Host.Outcome State Fault Refusal :=
  stateExpiry .chek (·.chekMax)
    (fun s =>
      let s1 := markFlame (onTimers (fun t => { t with chekMax := .stopped }) s)
      decideNow (chekOutcome s1) s1)
    s

/-- PREHEAT_TIMER_EXPIRY (R69, R75). -/
def execPreheatTimerExpiry (s : State) : Host.Outcome State Fault Refusal :=
  stateExpiry .cond (·.preheat) (fun s => seqEvent (onTimers (fun t => { t with preheat := .expired }) s)) s

/-- COND_MAXIMUM_EXPIRY (R45, R76, R77). -/
def execCondMaximumExpiry (s : State) : Host.Outcome State Fault Refusal :=
  stateExpiry .cond (·.condMax)
    (fun s =>
      decideNow (if oilReady s then .failed .preheatFailed else .notCounted .coldOil)
        (onTimers (fun t => { t with condMax := .stopped }) s))
    s

/-- PRE_PURGE_EXPIRY (R47). -/
def execPrePurgeExpiry (s : State) : Host.Outcome State Fault Refusal :=
  stateExpiry .purg (·.prePurge) (fun s => seqEvent (onTimers (fun t => { t with prePurge := .expired }) s)) s

/-- PURG_MAXIMUM_EXPIRY (R47). -/
def execPurgMaximumExpiry (s : State) : Host.Outcome State Fault Refusal :=
  stateExpiry .purg (·.purgMax)
    (fun s => decideNow (.failed .draughtFailed) (onTimers (fun t => { t with purgMax := .stopped }) s)) s

/-- PROOF_TIMER_EXPIRY (R85): draught proof is achieved, and the PURG exit is tested. -/
def execProofTimerExpiry (s : State) : Host.Outcome State Fault Refusal :=
  react
    (fun s =>
      if s.seq.sup = .purg then
        whenDue s.flue.proof
          (fun s =>
            seqEvent (onFlue (fun w => { w with proof := .stopped }) (onAttempt (fun a => { a with proof := true }) s)))
          s
      else s)
    s

/-- SAFETY_TIME_EXPIRY (R48). -/
def execSafetyTimeExpiry (s : State) : Host.Outcome State Fault Refusal :=
  stateExpiry .ignt (·.safety)
    (fun s => decideNow (.failed .ignitionFailed) (onTimers (fun t => { t with safety := .stopped }) s)) s

/-- WARM_MAXIMUM_EXPIRY (R49). -/
def execWarmMaximumExpiry (s : State) : Host.Outcome State Fault Refusal :=
  stateExpiry .warm (·.warmMax)
    (fun s => decideNow (.failed .flueNotRising) (onTimers (fun t => { t with warmMax := .stopped }) s)) s

/-- LOSS_TIMER_EXPIRY (R87): the verdict draught lost. -/
def execLossTimerExpiry (s : State) : Host.Outcome State Fault Refusal :=
  react
    (fun s =>
      if s.seq.sup = .warm ∨ s.seq.sup = .fire then
        whenDue s.flue.loss
          (fun s => decideNow (.failed .draughtLost) (onFlue (fun w => { w with loss := .stopped }) s)) s
      else s)
    s

/-- STABLE_FIRING_EXPIRY (R50): the failure count is set to 0. -/
def execStableFiringExpiry (s : State) : Host.Outcome State Fault Refusal :=
  stateExpiry .fire (·.stable)
    (fun s => onSeq (fun q => { q with failCount := 0 }) (onTimers (fun t => { t with stable := .stopped }) s)) s

/-- POST_MINIMUM_EXPIRY (R56). -/
def execPostMinimumExpiry (s : State) : Host.Outcome State Fault Refusal :=
  stateExpiry .post (·.postMin) (fun s => seqEvent (onTimers (fun t => { t with postMin := .expired }) s)) s

/-- POST_MAXIMUM_EXPIRY (R56). -/
def execPostMaximumExpiry (s : State) : Host.Outcome State Fault Refusal :=
  stateExpiry .post (·.postMax)
    (fun s => seqEvent (endPost (onTimers (fun t => { t with postMax := .stopped }) s))) s

/-- RECYCLE_WAIT_EXPIRY (R57): a new attempt while requests are present. -/
def execRecycleWaitExpiry (s : State) : Host.Outcome State Fault Refusal :=
  stateExpiry .rcyw (·.recycle)
    (fun s => seqEvent (if requests s then beginAttempt (onTimers (fun t => { t with recycle := .stopped }) s) else s)) s

/-- COLD_HOLD_EXPIRY (R58, R78): a new attempt while requests are present. -/
def execColdHoldExpiry (s : State) : Host.Outcome State Fault Refusal :=
  stateExpiry .cold (·.coldHold)
    (fun s => seqEvent (if requests s then beginAttempt (onTimers (fun t => { t with coldHold := .stopped }) s) else s)) s

/-- RE_PLACE_TIMER_EXPIRY (R37): the current set is placed again. -/
def execRePlaceTimerExpiry (s : State) : Host.Outcome State Fault Refusal :=
  react (fun s => whenDue s.seq.rePlace (fun s => placeSet s.seq.current s) s) s

end Sys2Proof.Machine
end

