-- ==== Sys2Proof/Machine/FrostTimers.lean ====
section
/-! DEFINITION. PERIOD_TIMER_EXPIRY, ON_TIMER_EXPIRY, REFRESH_TIMER_EXPIRY, MINUTE_TIMER_EXPIRY. -/

namespace Sys2Proof.Machine

/-- A change of one zone, after which the zone frost call is evaluated if the zone began or stopped
circulating (R109). -/
def zoneChange (z : Fin 6) (f : State → State) (s : State) : State :=
  if (zone (f s) z).state.holds = (zone s z).state.holds then f s else zoneCallEvent (f s)

/-- The zone is in mode Duty (R97). -/
def inDuty (s : State) (z : Fin 6) : Bool :=
  match (zone s z).state with
  | .sensorlessDuty _ => true
  | .disabled | .quiet | .accruing | .protecting | .sensorlessHeld => false

/-- PERIOD_TIMER_EXPIRY (R103). -/
def execPeriodTimerExpiry (z : Fin 6) (s : State) : Host.Outcome State Fault Refusal :=
  react
    (fun s => if inDuty s z then whenDue (zone s z).period (zoneChange z (beginPeriod z)) s else s) s

/-- ON_TIMER_EXPIRY (R103). -/
def execOnTimerExpiry (z : Fin 6) (s : State) : Host.Outcome State Fault Refusal :=
  react
    (fun s => if inDuty s z then whenDue (zone s z).on (zoneChange z (endOnPeriod z)) s else s) s

/-- REFRESH_TIMER_EXPIRY (R107). -/
def execRefreshTimerExpiry (z : Fin 6) (s : State) : Host.Outcome State Fault Refusal :=
  react (fun s => whenDue (zone s z).refresh (refreshZone z) s) s

/-- The reset list a minute later: every age up by 1, entries of 60 removed (R117). -/
def agedResets (ages : List Nat) : List Nat := (ages.map (· + 1)).filter (· < 60)

/-- MINUTE_TIMER_EXPIRY (R117). -/
def execMinuteTimerExpiry (s : State) : Host.Outcome State Fault Refusal :=
  react
    (fun s =>
      whenDue s.lock.minute
        (fun s =>
          let s1 := { s with lock := { s.lock with minute := startSec s 60 } }
          if (lockPage s).resets = [] then s1 else changeLock (fun l => { l with resets := agedResets l.resets }) s1)
        s)
    s

end Sys2Proof.Machine
end

