-- ==== Sys2Proof/Machine/Receive.lean ====
section
/-! DEFINITION. What a port makes of the levels it reads: characters, frames and their judgement (R126, R127,
R177), the block a valid frame is for (R142, R143), and the command a management request spells (R168, R179).
`heard` says which command of the table a frame on the wire is. -/

namespace Sys2Proof.Machine

/-! ### Characters (R177) -/

/-- A level of the line for one bit time: yes is recessive, no is dominant, and a 0 is dominant (R177). -/
abbrev Level := Bool

/-- A character: a dominant start bit, eight data bits least significant first, a recessive stop bit (R177). -/
def charLevels (b : Byte) : List Level :=
  [false, b.getLsbD 0, b.getLsbD 1, b.getLsbD 2, b.getLsbD 3, b.getLsbD 4, b.getLsbD 5, b.getLsbD 6, b.getLsbD 7, true]

/-- The byte of eight data bits, least significant first (R177). -/
def byteOfLevels (l : List Level) : Byte := byteOf (l.foldr (fun d n => 2 * n + d.toNat) 0)

/-- The bit times a line may stay recessive between two characters of a frame: one character time (R126). -/
def pauseBits : Nat := 10

/-- The bytes of the characters on a line that has been recessive for `pause` bit times since the last one. A stop
bit that is not recessive, and a pause of more than one character time, end the characters (R126; log 52). -/
def readChars (pause : Nat) : List Level → List Byte
  | [] => []
  | true :: rest => if pause < pauseBits then readChars (pause + 1) rest else []
  | false :: d0 :: d1 :: d2 :: d3 :: d4 :: d5 :: d6 :: d7 :: stop :: rest =>
    if stop then byteOfLevels [d0, d1, d2, d3, d4, d5, d6, d7] :: readChars 0 rest else []
  | false :: _ => []

/-- The opener: 12 dominant bit times (R126). -/
def opener : List Level := List.replicate 12 false

/-- A frame as it stands on the line, from its opener to its last stop bit (R126, R177). -/
def Frame.levels (f : Frame) : List Level := opener ++ f.wire.flatMap charLevels

/-! ### Frames (R126, R127, R177) -/

/-- What a port makes of the characters after an opener. -/
inductive Heard where
  | abandoned
  | checkFails
  | valid (f : Frame)
deriving DecidableEq, Repr

/-- The characters after an opener. A header byte outside its values abandons the frame (R126, R177), as do
characters that end before the second check byte; a complete frame is valid where its check word holds (R127). -/
def readFrame (bytes : List Byte) : Heard :=
  match bytes with
  | dst :: src :: kind :: length :: rest =>
    match Kind.ofCode (kind.toNat / 16) with
    | some k =>
      if headerOk dst.toNat src.toNat (kind.toNat / 16) (kind.toNat % 16) length.toNat
          && length.toNat + 2 ≤ rest.length then
        let payload := rest.take length.toNat
        if (rest.drop length.toNat).take 2 = word16 (checkWord (dst :: src :: kind :: length :: payload)).toNat then
          .valid { dst := dst.toNat, src := src.toNat, kind := k, sub := kind.toNat % 16, payload := payload }
        else .checkFails
      else .abandoned
    | none => .abandoned
  | _ => .abandoned

/-- What a port makes of the levels after an opener. -/
def readLevels (l : List Level) : Heard := readFrame (readChars 0 l)

/-! ### Management requests (R168, R179) -/

/-- The command an MRQ payload spells by its command code and its length; any other payload is malformed (R168,
R179). -/
def requestOf (payload : List Byte) : Instr :=
  match payload with
  | [] => .malformedManagementRequest
  | code :: args =>
    match code.toNat, args with
    | 0x01, [] => .stat
    | 0x02, [channel] => .chan channel
    | 0x03, [part] => .attr part
    | 0x04, [a, b, c] => .evnt (a ++ b ++ c)
    | 0x05, [a, b, c] => .amsk (a ++ b ++ c)
    | 0x06, [direction, first, count] => .openTransfer direction first count
    | 0x07, index :: data => if chunkLengthOk data then .chnk index data else .malformedManagementRequest
    | 0x08, [] => .flsh
    | 0x09, [page] => .eras page
    | 0x0A, [] => .rlck
    | 0x0B, [] => .clrh
    | 0x0C, [] => .rfsl
    | 0x0D, [] => .srst
    | 0x0E, [] => .frst
    | _, _ => .malformedManagementRequest

/-! ### Which block takes a valid frame (R142, R143) -/

/-- The command a valid frame of the upstream segment is, by its kind and the map entry of its destination
(R142). -/
def upstreamRow (s : State) (f : Frame) : Instr :=
  match f.kind, segment s f.dst with
  | .smp, _ => .sampleFrame .upstream f.dst f.src f.sub f.payload
  | .cmd, .field => .upstreamCommand f.dst f.src f.payload
  | .cmd, .own => .ownCommandFrame .upstream
  | .cmd, .absent => if f.dst = 0 then .broadcastCommand f.src f.payload else .upstreamFrameNoEffect
  | .dmd, .own => .demandFrame f.src f.payload
  | .mrq, .own => if f.src = managingStation s then requestOf f.payload else .mrqNotManaging f.src
  | _, _ => .upstreamFrameNoEffect

/-- The command a valid frame of the field segment is (R143). -/
def fieldRow (s : State) (f : Frame) : Instr :=
  match f.kind, segment s f.dst with
  | .smp, _ => .sampleFrame .field f.dst f.src f.sub f.payload
  | .cmd, .own => .ownCommandFrame .field
  | .dmd, .own | .mrq, .own => .fieldManagementFrame f.src
  | _, _ => .fieldFrameOther

/-- The command of the table that the levels after an opener are at a port (R126, R127, R142, R143). -/
def heard (id : PortId) (s : State) (l : List Level) : Instr :=
  match readLevels l, id with
  | .abandoned, _ => .frameAbandoned id
  | .checkFails, _ => .frameCheckFail id
  | .valid f, .upstream => upstreamRow s f
  | .valid f, .field => fieldRow s f

end Sys2Proof.Machine
end

