-- ==== Sys2Proof/Machine/RelayCommands.lean ====
section
/-! DEFINITION. The frames the Relay Unit takes, and its timers: UPSTREAM_COMMAND, BROADCAST_COMMAND,
OWN_COMMAND_FRAME, FIELD_MANAGEMENT_FRAME, FIELD_FRAME_OTHER, UPSTREAM_FRAME_NO_EFFECT, MRQ_NOT_MANAGING,
RELAY_DEADLINE_EXPIRY, REPORT_TIMER_EXPIRY. -/

namespace Sys2Proof.Machine

/-- The code of a command payload, where it has one (section 9.3). -/
def codeOf (payload : List Byte) : Option Nat := payload.head?.map BitVec.toNat

/-- The Relay slot holds a broadcast command, unsent or on the line (R144). -/
def slotHoldsBroadcast (s : State) : Bool := s.arb.relaySlot.any (fun x => x.broadcast && !x.late)

/-- A directed command to a Field entry (R144, R145, R148). -/
def relayDirected (dst src : Nat) (payload : List Byte) (s : State) : State :=
  match judgeDirected s dst payload with
  | .malformed => complete .upstream (some .nakM) s
  | .refused r => setRefusal src dst (codeOf payload) r (complete .upstream (some .nakR) s)
  | .passed p adjusted =>
    if slotHoldsBroadcast s then complete .upstream (some .nakB) s
    else beginRelay { dst := dst, src := src, kind := .cmd, sub := 0, payload := p } adjusted s

/-- UPSTREAM_COMMAND (R142, R144): a directed CMD on the upstream segment, by the segment of its
destination's map entry (log 30). -/
def execUpstreamCommand (dst src : Nat) (payload : List Byte) (s : State) : Host.Outcome State Fault Refusal :=
  react
    (onFrame .upstream (Instr.upstreamCommand dst src payload).wellFormed
      (fun s =>
        match segment s dst with
        | .field => relayDirected dst src payload s
        | .own => complete .upstream (some .nakM) s
        | .upstream | .absent => followAck .upstream s))
    s

/-- A broadcast command (R146): judged, never answered. -/
def relayBroadcast (src : Nat) (payload : List Byte) (s : State) : State :=
  match judgeBroadcast s payload with
  | .malformed => s
  | .refused r => setRefusal src 0 (codeOf payload) r s
  | .passed p _ =>
    if (slotHoldsBroadcast s && relayOnLine s) || (s.arb.relaySlot.any (fun x => !x.broadcast && !x.late)) then s
    else placeRelay { dst := 0, src := src, kind := .cmd, sub := 0, payload := p } true s

/-- BROADCAST_COMMAND (R146). -/
def execBroadcastCommand (src : Nat) (payload : List Byte) (s : State) : Host.Outcome State Fault Refusal :=
  react
    (onFrame .upstream (Instr.broadcastCommand src payload).wellFormed
      (fun s => relayBroadcast src payload (complete .upstream none s)))
    s

/-- OWN_COMMAND_FRAME (R142, R143): a CMD to the own station is answered NAK-M. -/
def execOwnCommandFrame (id : PortId) (s : State) : Host.Outcome State Fault Refusal :=
  react (onFrame id true (complete id (some .nakM))) s

/-- FIELD_MANAGEMENT_FRAME (R22, R143): a DMD or MRQ to the own station on the field segment is answered
NAK-R, Not Managing. -/
def execFieldManagementFrame (src : Nat) (s : State) : Host.Outcome State Fault Refusal :=
  react (onFrame .field (Instr.fieldManagementFrame src).wellFormed (refuseNotManaging .field src)) s

/-- FIELD_FRAME_OTHER (R136, R143): any other valid field frame restarts the field silence timer alone. -/
def execFieldFrameOther (s : State) : Host.Outcome State Fault Refusal :=
  react (onFrame .field true (passBy .field)) s

/-- UPSTREAM_FRAME_NO_EFFECT (R142): the port leaves Receiving, after the ack position where one follows (R125),
and nothing else. -/
def execUpstreamFrameNoEffect (s : State) : Host.Outcome State Fault Refusal :=
  react (onFrame .upstream true (passBy .upstream)) s

/-- MRQ_NOT_MANAGING (R142, R147): NAK-R before its payload is judged. From the managing station it is no
such frame (log 30). -/
def execMrqNotManaging (src : Nat) (s : State) : Host.Outcome State Fault Refusal :=
  react
    (fun s =>
      if src = managingStation s then s
      else onFrame .upstream (Instr.mrqNotManaging src).wellFormed (refuseNotManaging .upstream src) s)
    s

/-- RELAY_DEADLINE_EXPIRY (R150). -/
def execRelayDeadlineExpiry (s : State) : Host.Outcome State Fault Refusal :=
  react
    (fun s =>
      match s.relay.record with
      | some c => whenDue c.deadline (relayLate c) s
      | none => s)
    s

/-- REPORT_TIMER_EXPIRY (R153). -/
def execReportTimerExpiry (s : State) : Host.Outcome State Fault Refusal :=
  react
    (fun s =>
      whenDue s.relay.report
        (fun s => offer (reportFrame s) (onRelay (fun r => { r with report := startMs s 2000 }) s)) s)
    s

end Sys2Proof.Machine
end

