-- ==== Sys2Proof/Machine/LineCommands.lean ====
section
/-! DEFINITION. What a port tells its blocks, the grants, and the timers of the Field Port (R126 to R137).
An event that cannot reach the port in its state has no effect (log 4). -/

namespace Sys2Proof.Machine

/-- FRAME_CHECK_FAIL (R127): the frame is discarded, and the idle gap runs from its end. -/
def execFrameCheckFail (id : PortId) (s : State) : Host.Outcome State Fault Refusal :=
  react (onFrame id true (fun s => onPort id (toIdle s) s)) s

/-- FRAME_ABANDONED (R126). -/
def execFrameAbandoned (id : PortId) (s : State) : Host.Outcome State Fault Refusal :=
  react (onFrame id false (fun s => s)) s

/-- ARBITER_GRANT (R137): at a free field line a frame that lost arbitration is sent again, else the first
claimant is granted. -/
def execArbiterGrant (s : State) : Host.Outcome State Fault Refusal :=
  react
    (fun s =>
      if mayTransmit s.field then
        match s.field.trying with
        | some t => sendAgain t s
        | none => grantFirst s
      else s)
    s

/-- UPSTREAM_SEND (R133): at a free upstream line the head of the UTQ is sent, or sent again after a lost
arbitration. -/
def execUpstreamSend (s : State) : Host.Outcome State Fault Refusal :=
  react
    (fun s =>
      if mayTransmit s.up then
        match s.up.trying with
        | some t => sendAgain t s
        | none => sendHead s
      else s)
    s

/-- ARBITRATION_LOST (R131). -/
def execArbitrationLost (id : PortId) (s : State) : Host.Outcome State Fault Refusal :=
  react
    (fun s => match tryOnLine (port s id) with
      | some t => loseArbitration id t s
      | none => s)
    s

/-- COLLISION (R132): the try ends as failed. -/
def execCollision (id : PortId) (s : State) : Host.Outcome State Fault Refusal :=
  react
    (fun s => match tryOnLine (port s id) with
      | some t => endTry id t (toWaiting id s) .failed s
      | none => s)
    s

/-- ACK_BYTE (R128, R130): the try ends with the character's code. Without a try in its ack position the
character is traffic on the line (R139). -/
def execAckByte (value : Byte) (stopGood : Bool) (s : State) : Host.Outcome State Fault Refusal :=
  react
    (fun s => match ackedTry s with
      | some t => endTry .field t (toIdle s) (resultOf value stopGood) s
      | none => hearTraffic .field s)
    s

/-- ACK_POSITION_END (R130): the ack position ends with no ack and no hold, or the hold with no ack. After a
hold whose try has ended at its limit it tells that the line has been released (log 40). -/
def execAckPositionEnd (s : State) : Host.Outcome State Fault Refusal :=
  react
    (fun s => match ackedTry s with
      | some t => endTry .field t (toIdle s) .failed s
      | none => hearTraffic .field s)
    s

/-- HOLD_BEGUN (R130): the try goes on, and the line hold limit of 500 ms begins, at this event and not at the onset
of the dominant level, from which the dominant time of R134 counts (log 41, 51). Without a try in its ack position,
as after a restart has cut it short (R138), it tells that the line is in use (log 40). -/
def execHoldBegun (s : State) : Host.Outcome State Fault Refusal :=
  react
    (fun s => match ackedTry s with
      | some t =>
        if t.hold.isRunning then s
        else
          onPort .field
            (fun p => { p with dominant := startMs s dominantMs, trying := some { t with hold := startMs s 500 } }) s
      | none => hearHold .field s)
    s

/-- HOLD_LIMIT_EXPIRY (R130): the try ends as no ack, and the line counts as busy. -/
def execHoldLimitExpiry (s : State) : Host.Outcome State Fault Refusal :=
  react
    (fun s => match ackedTry s with
      | some t => whenDue t.hold (endTry .field t toHeld .failed) s
      | none => s)
    s

/-- The try of a frame that needs no ack has been sent; a response sent from the UTQ is told to the
Management Unit (R130, R152). -/
def trySent (id : PortId) (t : Try) (s : State) : State :=
  let s1 := endTry id t (toIdle s) .sent s
  if t.owner = .utq ∧ t.frame.kind = .mrs then responseSent s1 else s1

/-- FRAME_SENT (R130). -/
def execFrameSent (id : PortId) (s : State) : Host.Outcome State Fault Refusal :=
  react
    (fun s => match tryOnLine (port s id) with
      | some t => if t.frame.needsAck then s else trySent id t s
      | none => s)
    s

/-- LINE_STUCK (R134): the port enters Stuck from any other state, once the line can have been dominant for more
than 1 s. -/
def execLineStuck (id : PortId) (s : State) : Host.Outcome State Fault Refusal :=
  react
    (fun s => if (port s id).line = .stuck ∨ dominantLong (port s id) s.now = false then s else enterStuck id s) s

/-- STUCK_END (R134): the first recessive level. It ends Stuck; at a port whose line was held dominant without
being Stuck the idle gap begins (R130, R138). -/
def execStuckEnd (id : PortId) (s : State) : Host.Outcome State Fault Refusal :=
  react
    (fun s =>
      if (port s id).line = .stuck then onPort id (toIdle s) s
      else if (port s id).gap = .held then hearTraffic id s
      else s)
    s

/-- OPENER_SEEN (R126): the port enters Receiving. -/
def execOpenerSeen (id : PortId) (s : State) : Host.Outcome State Fault Refusal :=
  react
    (fun s =>
      if mayTransmit (port s id) then
        onPort id (fun p => { p with line := .receiving, gap := .busy, dominant := startMs s dominantMs }) s
      else s)
    s

/-- CYCLE_TIMER_EXPIRY (R135): a mark with the present index falls due into the Mark slot, and the index
advances. -/
def execCycleTimerExpiry (s : State) : Host.Outcome State Fault Refusal :=
  react
    (fun s =>
      whenDue s.cyc.timer
        (fun s =>
          onArb (fun a => { a with markWaiting := some s.cyc.index })
            { s with cyc := { s.cyc with timer := startMs s 250, index := (s.cyc.index + 1) % 8 } })
        s)
    s

/-- FIELD_SILENCE_EXPIRY (R136). -/
def execFieldSilenceExpiry (s : State) : Host.Outcome State Fault Refusal :=
  react
    (fun s =>
      whenDue s.cyc.silence
        (fun s => latch [.fieldSilent] { s with cyc := { s.cyc with silence := .stopped } }) s)
    s

end Sys2Proof.Machine
end

