-- ==== Sys2Proof/Machine/ManagementCommands.lean ====
section
/-! DEFINITION. The management commands, the malformed request and the transfer's idle timer (R168 to
R176). -/

namespace Sys2Proof.Machine

/-- STAT (R169). -/
def execStat (s : State) : Host.Outcome State Fault Refusal :=
  react (request true (fun s => respond codeStat .done (statData s) s)) s

/-- CHAN (R169). -/
def execChan (channel : Byte) (s : State) : Host.Outcome State Fault Refusal :=
  react
    (request true
      (fun s =>
        if h : channel.toNat < 14 then respond codeChan .done (chanData s ⟨channel.toNat, h⟩) s
        else respond codeChan .outOfRange [] s))
    s

/-- ATTR (R169). -/
def execAttr (part : Byte) (s : State) : Host.Outcome State Fault Refusal :=
  react
    (request true
      (fun s =>
        if part.toNat ≤ 1 then respond codeAttr .done (attrData s part.toNat) s else respond codeAttr .outOfRange [] s))
    s

/-- EVNT (R173): the set as it stands is answered, and the named events are cleared. They are cleared before the
response is offered: an Upstream Drop that the offer latches stays latched, also where the mask names it
(log 46). -/
def execEvnt (mask : BitVec 24) (s : State) : Host.Outcome State Fault Refusal :=
  react
    (request true
      (fun s =>
        respond codeEvnt .done (eventBytes s ++ [byteOf (conditions s)])
          (onMgmt (fun m => { m with events := m.events &&& ~~~ maskOf mask }) s)))
    s

/-- AMSK (R169, R174). The mask is replaced before the response is offered: an Upstream Drop that the offer
latches is judged by the new mask (log 46). -/
def execAmsk (mask : BitVec 24) (s : State) : Host.Outcome State Fault Refusal :=
  react (request true (fun s => respond codeAmsk .done [] (onMgmt (fun m => { m with mask := maskOf mask }) s))) s

/-- OPEN (R170). -/
def execOpen (direction firstPage count : Byte) (s : State) : Host.Outcome State Fault Refusal :=
  react (request true (openRequest direction.toNat firstPage.toNat count.toNat)) s

/-- CHNK (R171). A length the table of R179 does not give is malformed (R168). -/
def execChnk (index : Byte) (data : List Byte) (s : State) : Host.Outcome State Fault Refusal :=
  react (request (Instr.chnk index data).wellFormed (chunkRequest index.toNat data)) s

/-- FLSH (R172). -/
def execFlsh (s : State) : Host.Outcome State Fault Refusal :=
  react
    (request true
      (fun s =>
        if s.mgmt.transfer = .closed then respond codeFlsh .noTransfer [] s
        else respond codeFlsh .done [] (closeTransfer s)))
    s

/-- ERAS (R157, R162, R169). -/
def execEras (page : Byte) (s : State) : Host.Outcome State Fault Refusal :=
  react
    (request true
      (fun s => if 13 < page.toNat then respond codeEras .outOfRange [] s else eraseRequest page.toNat s))
    s

/-- RLCK (R118). -/
def execRlck (s : State) : Host.Outcome State Fault Refusal := react (request true resetRequest) s

/-- CLRH (R123). -/
def execClrh (s : State) : Host.Outcome State Fault Refusal := react (request true clearRequest) s

/-- RFSL (R169). -/
def execRfsl (s : State) : Host.Outcome State Fault Refusal :=
  react (request true (fun s => respond codeRfsl .done (rfslData s) s)) s

/-- SRST (R175): it takes effect when its response has been sent. -/
def execSrst (s : State) : Host.Outcome State Fault Refusal :=
  react (request true (fun s => respond codeSrst .done [] (onMgmt (fun m => { m with restart := .softAsked }) s))) s

/-- FRST (R176): it waits for its response to be sent, and then for a quiet store. -/
def execFrst (s : State) : Host.Outcome State Fault Refusal :=
  react (request true (fun s => respond codeFrst .done [] (onMgmt (fun m => { m with restart := .fullAsked }) s))) s

/-- MALFORMED_MANAGEMENT_REQUEST (R168): NAK-M from an Empty mailbox, NAK-B from another. -/
def execMalformedManagementRequest (s : State) : Host.Outcome State Fault Refusal := react (request false id) s

/-- The transfer's idle timer expires: a Load is rejected as Incomplete (R172). -/
def expireIdle (s : State) : State :=
  match s.mgmt.transfer with
  | .loading _ _ _ => rejectPage .incomplete (closeTransfer s)
  | .fetching _ _ _ | .closed | .writing _ _ => closeTransfer s

/-- IDLE_TIMER_EXPIRY (R172). -/
def execIdleTimerExpiry (s : State) : Host.Outcome State Fault Refusal :=
  react (fun s => whenDue s.mgmt.idle expireIdle s) s

end Sys2Proof.Machine
end

