-- ==== Sys2Proof/Machine/StoreCommands.lean ====
section
/-! DEFINITION. The store port: its grants, the completions of its operations, and the sweep timer (R160 to
R165). A completion without its operation in flight, or before its port time is over, has no effect (log 3, 4). -/

namespace Sys2Proof.Machine

/-- The operation a management access starts with; a write takes its content now (R159, R160). -/
def opOfClaim (s : State) : MgmtClaim → StoreOp
  | .fetch p => .fetch p
  | .erase p => .erase p
  | .write p .first => .write p (s.store.heldIdentity.getD s.mgmt.buffer) .first
  | .write p part => .write p s.mgmt.buffer part

/-- The port time of an operation, in ms (R160). -/
def StoreOp.portMs : StoreOp → Nat
  | .check _ | .fetch _ => 2
  | .recordWrite _ _ _ | .repair _ _ | .write _ _ _ | .erase _ => 25

/-- An operation starts, and runs for its port time (R160). -/
def beginOp (o : StoreOp) (s : State) : State :=
  onStore (fun t => { t with op := some o, portTimer := startMs s o.portMs }) s

/-- The first claim in the order of R160 is granted. -/
def grantStore (s : State) : State :=
  match s.store.pendingRec, s.store.sweepClaim, s.store.mgmtClaim with
  | p :: rest, _, _ =>
    beginOp (.recordWrite p (pageOf s p) (s.mgmt.wait != .nothing)) (onStore (fun t => { t with pendingRec := rest }) s)
  | [], some .check, _ => beginOp (.check s.store.sweepPos) (onStore (fun t => { t with sweepClaim := none }) s)
  | [], some .repair, _ =>
    beginOp (.repair s.store.sweepPos (pageOf s s.store.sweepPos)) (onStore (fun t => { t with sweepClaim := none }) s)
  | [], none, some c => beginOp (opOfClaim s c) (onStore (fun t => { t with mgmtClaim := none }) s)
  | [], none, none => s

/-- STORE_PORT_GRANT (R160). -/
def execStorePortGrant (s : State) : Host.Outcome State Fault Refusal :=
  react (fun s => if s.store.op = none then grantStore s else s) s

/-- The port is free again. -/
def freePort (s : State) : State := onStore (fun t => { t with op := none, portTimer := .stopped }) s

/-- The operation in flight completes at the end of its port time, and not before it (R160; log 3). -/
def completing (f : StoreOp → State → State) (s : State) : State :=
  whenDue s.store.portTimer
    (fun s => match s.store.op with
      | some o => f o s
      | none => s)
    s

/-- RECORD_WRITE_COMPLETE (R115, R118, R123, R160). -/
def execRecordWriteComplete (s : State) : Host.Outcome State Fault Refusal :=
  react
    (completing fun o s => match o with
      | .recordWrite p content answers =>
        let s1 := setStored p (Image.valid content) (freePort s)
        if answers then recordWritten p s1 else s1
      | .check _ | .repair _ _ | .fetch _ | .write _ _ _ | .erase _ => s)
    s

/-- What follows a completed management write: the second write of a pair, or the installation and the
answer Done (R159, R161). -/
def afterWrite (p : Nat) (part : PairPart) (s : State) : State :=
  match part with
  | .first => onStore (fun t => { t with mgmtClaim := some (.write 1 .second) }) s
  | .second =>
    inEitherOrder answerWritten (installWritten [0, 1]) (onStore (fun t => { t with heldIdentity := none }) s)
  | .single => inEitherOrder answerWritten (installWritten [p]) s

/-- MANAGEMENT_WRITE_COMPLETE (R159, R161). -/
def execManagementWriteComplete (s : State) : Host.Outcome State Fault Refusal :=
  react
    (completing fun o s => match o with
      | .write p content part => afterWrite p part (setStored p (Image.valid content) (freePort s))
      | .recordWrite _ _ _ | .check _ | .repair _ _ | .fetch _ | .erase _ => s)
    s

/-- ERASE_COMPLETE (R162). -/
def execEraseComplete (s : State) : Host.Outcome State Fault Refusal :=
  react
    (completing fun o s => match o with
      | .erase p =>
        inEitherOrder (respond codeEras .done []) (installWritten [p])
          (setStored p (Image.invalid (storedOf s p).content) (freePort s))
      | .recordWrite _ _ _ | .check _ | .repair _ _ | .fetch _ | .write _ _ _ => s)
    s

/-- FETCH_READ_COMPLETE (R155, R171). -/
def execFetchReadComplete (s : State) : Host.Outcome State Fault Refusal :=
  react
    (completing fun o s => match o with
      | .fetch p => answerFetched p (freePort s)
      | .recordWrite _ _ _ | .check _ | .repair _ _ | .erase _ | .write _ _ _ => s)
    s

/-- SWEEP_TIMER_EXPIRY (R163). -/
def execSweepTimerExpiry (s : State) : Host.Outcome State Fault Refusal :=
  react
    (fun s =>
      whenDue s.store.sweepTimer
        (fun s => onStore (fun t => { t with sweepTimer := .stopped, sweepClaim := some .check }) s) s)
    s

/-- CHECK_STEP_COMPLETE (R163 to R165). -/
def execCheckStepComplete (s : State) : Host.Outcome State Fault Refusal :=
  react
    (completing fun o s => match o with
      | .check p => checkPage p (freePort s)
      | .recordWrite _ _ _ | .fetch _ | .repair _ _ | .erase _ | .write _ _ _ => s)
    s

/-- REPAIR_WRITE_COMPLETE (R164). -/
def execRepairWriteComplete (s : State) : Host.Outcome State Fault Refusal :=
  react
    (completing fun o s => match o with
      | .repair p content => sweepOn (setStored p (Image.valid content) (freePort s))
      | .recordWrite _ _ _ | .fetch _ | .check _ | .erase _ | .write _ _ _ => s)
    s

end Sys2Proof.Machine
end

