-- ==== Sys2Proof/Machine/Dispatch.lean ====
section
/-! DEFINITION. The meaning of each command: one call per constructor. -/

namespace Sys2Proof.Machine

/-- The effect of a command on everything but the queue. -/
def exec (i : Instr) (s : State) : Host.Outcome State Fault Refusal :=
  match i with
  | .powerUp => Sys2Proof.Machine.execPowerUp s
  | .powerLoss => Sys2Proof.Machine.execPowerLoss s
  | .localResetPush => Sys2Proof.Machine.execLocalResetPush s
  | .commissioningLinkChange fitted => Sys2Proof.Machine.execCommissioningLinkChange fitted s
  | .sampleFrame port dst src sampleSet payload => Sys2Proof.Machine.execSampleFrame port dst src sampleSet payload s
  | .freshnessExpiry channel => Sys2Proof.Machine.execFreshnessExpiry channel s
  | .demandFrame src payload => Sys2Proof.Machine.execDemandFrame src payload s
  | .demandTimerExpiry => Sys2Proof.Machine.execDemandTimerExpiry s
  | .chekMaximumExpiry => Sys2Proof.Machine.execChekMaximumExpiry s
  | .preheatTimerExpiry => Sys2Proof.Machine.execPreheatTimerExpiry s
  | .condMaximumExpiry => Sys2Proof.Machine.execCondMaximumExpiry s
  | .prePurgeExpiry => Sys2Proof.Machine.execPrePurgeExpiry s
  | .purgMaximumExpiry => Sys2Proof.Machine.execPurgMaximumExpiry s
  | .proofTimerExpiry => Sys2Proof.Machine.execProofTimerExpiry s
  | .safetyTimeExpiry => Sys2Proof.Machine.execSafetyTimeExpiry s
  | .warmMaximumExpiry => Sys2Proof.Machine.execWarmMaximumExpiry s
  | .lossTimerExpiry => Sys2Proof.Machine.execLossTimerExpiry s
  | .stableFiringExpiry => Sys2Proof.Machine.execStableFiringExpiry s
  | .postMinimumExpiry => Sys2Proof.Machine.execPostMinimumExpiry s
  | .postMaximumExpiry => Sys2Proof.Machine.execPostMaximumExpiry s
  | .recycleWaitExpiry => Sys2Proof.Machine.execRecycleWaitExpiry s
  | .coldHoldExpiry => Sys2Proof.Machine.execColdHoldExpiry s
  | .rePlaceTimerExpiry => Sys2Proof.Machine.execRePlaceTimerExpiry s
  | .periodTimerExpiry zone => Sys2Proof.Machine.execPeriodTimerExpiry zone s
  | .onTimerExpiry zone => Sys2Proof.Machine.execOnTimerExpiry zone s
  | .refreshTimerExpiry zone => Sys2Proof.Machine.execRefreshTimerExpiry zone s
  | .minuteTimerExpiry => Sys2Proof.Machine.execMinuteTimerExpiry s
  | .upstreamCommand dst src payload => Sys2Proof.Machine.execUpstreamCommand dst src payload s
  | .broadcastCommand src payload => Sys2Proof.Machine.execBroadcastCommand src payload s
  | .ownCommandFrame port => Sys2Proof.Machine.execOwnCommandFrame port s
  | .fieldManagementFrame src => Sys2Proof.Machine.execFieldManagementFrame src s
  | .fieldFrameOther => Sys2Proof.Machine.execFieldFrameOther s
  | .relayDeadlineExpiry => Sys2Proof.Machine.execRelayDeadlineExpiry s
  | .reportTimerExpiry => Sys2Proof.Machine.execReportTimerExpiry s
  | .frameCheckFail port => Sys2Proof.Machine.execFrameCheckFail port s
  | .frameAbandoned port => Sys2Proof.Machine.execFrameAbandoned port s
  | .arbiterGrant => Sys2Proof.Machine.execArbiterGrant s
  | .upstreamSend => Sys2Proof.Machine.execUpstreamSend s
  | .arbitrationLost port => Sys2Proof.Machine.execArbitrationLost port s
  | .collision port => Sys2Proof.Machine.execCollision port s
  | .ackByte value stopGood => Sys2Proof.Machine.execAckByte value stopGood s
  | .ackPositionEnd => Sys2Proof.Machine.execAckPositionEnd s
  | .holdLimitExpiry => Sys2Proof.Machine.execHoldLimitExpiry s
  | .frameSent port => Sys2Proof.Machine.execFrameSent port s
  | .lineStuck port => Sys2Proof.Machine.execLineStuck port s
  | .stuckEnd port => Sys2Proof.Machine.execStuckEnd port s
  | .cycleTimerExpiry => Sys2Proof.Machine.execCycleTimerExpiry s
  | .fieldSilenceExpiry => Sys2Proof.Machine.execFieldSilenceExpiry s
  | .stat => Sys2Proof.Machine.execStat s
  | .chan channel => Sys2Proof.Machine.execChan channel s
  | .attr part => Sys2Proof.Machine.execAttr part s
  | .evnt mask => Sys2Proof.Machine.execEvnt mask s
  | .amsk mask => Sys2Proof.Machine.execAmsk mask s
  | .openTransfer direction firstPage count => Sys2Proof.Machine.execOpen direction firstPage count s
  | .chnk index data => Sys2Proof.Machine.execChnk index data s
  | .flsh => Sys2Proof.Machine.execFlsh s
  | .eras page => Sys2Proof.Machine.execEras page s
  | .rlck => Sys2Proof.Machine.execRlck s
  | .clrh => Sys2Proof.Machine.execClrh s
  | .rfsl => Sys2Proof.Machine.execRfsl s
  | .srst => Sys2Proof.Machine.execSrst s
  | .frst => Sys2Proof.Machine.execFrst s
  | .fullRestartEffect => Sys2Proof.Machine.execFullRestartEffect s
  | .idleTimerExpiry => Sys2Proof.Machine.execIdleTimerExpiry s
  | .storePortGrant => Sys2Proof.Machine.execStorePortGrant s
  | .recordWriteComplete => Sys2Proof.Machine.execRecordWriteComplete s
  | .managementWriteComplete => Sys2Proof.Machine.execManagementWriteComplete s
  | .eraseComplete => Sys2Proof.Machine.execEraseComplete s
  | .fetchReadComplete => Sys2Proof.Machine.execFetchReadComplete s
  | .sweepTimerExpiry => Sys2Proof.Machine.execSweepTimerExpiry s
  | .checkStepComplete => Sys2Proof.Machine.execCheckStepComplete s
  | .repairWriteComplete => Sys2Proof.Machine.execRepairWriteComplete s
  | .openerSeen port => Sys2Proof.Machine.execOpenerSeen port s
  | .holdBegun => Sys2Proof.Machine.execHoldBegun s
  | .upstreamFrameNoEffect => Sys2Proof.Machine.execUpstreamFrameNoEffect s
  | .mrqNotManaging src => Sys2Proof.Machine.execMrqNotManaging src s
  | .malformedManagementRequest => Sys2Proof.Machine.execMalformedManagementRequest s

end Sys2Proof.Machine
end

