-- ==== Sys2Proof/Machine/Clock.lean ====
section
/-! DEFINITION. The passage of powered time on an empty queue, with what R125 and R129 have a port do at a time that no
command tells: the stop bit of its own ack byte, the end of its idle gap (log 2). -/

namespace Sys2Proof.Machine

/-- The idle gap has elapsed once its deadline is reached: the line is free, and a port that waited for it in
Receiving returns to Idle (R125, R126, R132). A port that sends its own ack byte returns to Idle at the byte's stop bit,
and its idle gap begins (R129). -/
def passGap (now : Nat) (p : Port) : Port :=
  match p.line, p.gap with
  | .idle, .running d | .receiving, .running d => if d ≤ now then { p with line := .idle, gap := .elapsed } else p
  | .receiving, .answering d | .holding, .answering d =>
    if d ≤ now then { p with line := .idle, gap := .running (now + gapMs) } else p
  | _, _ => p

/-- One millisecond of powered time (DESIGN CHOICE, log 2). Without supply nothing passes. -/
def tick (s : State) : State :=
  if s.powered then
    { s with now := s.now + 1, up := passGap (s.now + 1) s.up, field := passGap (s.now + 1) s.field }
  else s

/-- The command at the front of the queue, with the state whose queue is the rest. -/
def front (s : State) : Option (Instr × State) :=
  match s.pending with
  | [] => none
  | c :: rest => some (c, { s with pending := rest })

end Sys2Proof.Machine
end

