-- ==== Sys2Proof/Machine/Step.lean ====
section
/-! DEFINITION. One step: the command at the front of the queue, or one millisecond on an empty queue. -/

namespace Sys2Proof.Machine

/-- One step of the machine (log 2). -/
def step (s : State) : Host.Outcome State Fault Refusal :=
  match front s with
  | some (c, s') => exec c s'
  | none => .next (tick s)

/-- The state with the command a word spells put at the front of its queue (log 31, 34). -/
def State.withFetchWord (s : State) (nbits w : Nat) : State :=
  match decodeTableWord nbits w with
  | some c => { s with pending := c :: s.pending }
  | none => s

end Sys2Proof.Machine
end

