-- ==== Sys2Proof/Safety.lean ====
section
/-! DEFINITION. What is claimed of the machine: when a command is timely, the parts of the state most
commands leave alone, and the invariants of the burner, of the queues and of the frost debt. -/

namespace Sys2Proof.Machine

/-! ### Timely commands (log 3, 4) -/

/-- The command can reach the part at this moment: a timer that expires has reached its deadline, a line on
which a try begins is free, a store operation that completes is in flight, and the supply is there. A command
that is not timely has no effect (log 3, 4). -/
def timely (s : State) (c : Instr) : Bool :=
  match c with
  | .powerUp => !s.powered
  | .commissioningLinkChange _ => true
  | .freshnessExpiry k => (chan s k).timer.due s.now
  | .demandTimerExpiry => s.demand.timer.due s.now
  | .chekMaximumExpiry => s.seq.timers.chekMax.due s.now
  | .preheatTimerExpiry => s.seq.timers.preheat.due s.now
  | .condMaximumExpiry => s.seq.timers.condMax.due s.now
  | .prePurgeExpiry => s.seq.timers.prePurge.due s.now
  | .purgMaximumExpiry => s.seq.timers.purgMax.due s.now
  | .proofTimerExpiry => s.flue.proof.due s.now
  | .safetyTimeExpiry => s.seq.timers.safety.due s.now
  | .warmMaximumExpiry => s.seq.timers.warmMax.due s.now
  | .lossTimerExpiry => s.flue.loss.due s.now
  | .stableFiringExpiry => s.seq.timers.stable.due s.now
  | .postMinimumExpiry => s.seq.timers.postMin.due s.now
  | .postMaximumExpiry => s.seq.timers.postMax.due s.now
  | .recycleWaitExpiry => s.seq.timers.recycle.due s.now
  | .coldHoldExpiry => s.seq.timers.coldHold.due s.now
  | .rePlaceTimerExpiry => s.seq.rePlace.due s.now
  | .periodTimerExpiry z => (zone s z).period.due s.now
  | .onTimerExpiry z => (zone s z).on.due s.now
  | .refreshTimerExpiry z => (zone s z).refresh.due s.now
  | .minuteTimerExpiry => s.lock.minute.due s.now
  | .relayDeadlineExpiry => s.relay.record.any (fun c => c.deadline.due s.now)
  | .reportTimerExpiry => s.relay.report.due s.now
  | .holdLimitExpiry => (ackedTry s).any (fun t => t.hold.due s.now)
  | .cycleTimerExpiry => s.cyc.timer.due s.now
  | .fieldSilenceExpiry => s.cyc.silence.due s.now
  | .idleTimerExpiry => s.mgmt.idle.due s.now
  | .sweepTimerExpiry => s.store.sweepTimer.due s.now
  | .arbiterGrant => s.powered && mayTransmit s.field
  | .upstreamSend => s.powered && mayTransmit s.up
  | .openerSeen id => s.powered && mayTransmit (port s id)
  | .lineStuck id => s.powered && dominantLong (port s id) s.now
  | .storePortGrant => s.powered && s.store.op == none
  | .recordWriteComplete | .managementWriteComplete | .eraseComplete | .fetchReadComplete
  | .checkStepComplete | .repairWriteComplete => s.powered && s.store.op != none && s.store.portTimer.due s.now
  | _ => s.powered

/-! ### What most commands leave alone -/

/-- Powered time, the supply, the link, the stored and factory pages, and the command queue. -/
def fixedPart (s : State) : Nat × Bool × Bool × Vector Image 21 × Vector Image 14 × List Instr :=
  (s.now, s.powered, s.link, s.store.stored, s.store.factory, s.pending)

/-- The working copies of pages 0 to 13. -/
def settings (s : State) : List Copy := (List.range 14).map (copyOf s)

/-- Both together. -/
def outside (s : State) : (Nat × Bool × Bool × Vector Image 21 × Vector Image 14 × List Instr) × List Copy :=
  (fixedPart s, settings s)

/-! ### Which commands reach which block -/

/-- The expiries of timers (R17, R27). -/
def isExpiry : Instr → Bool
  | .freshnessExpiry _ | .demandTimerExpiry | .chekMaximumExpiry | .preheatTimerExpiry | .condMaximumExpiry
  | .prePurgeExpiry | .purgMaximumExpiry | .proofTimerExpiry | .safetyTimeExpiry | .warmMaximumExpiry
  | .lossTimerExpiry | .stableFiringExpiry | .postMinimumExpiry | .postMaximumExpiry | .recycleWaitExpiry
  | .coldHoldExpiry | .rePlaceTimerExpiry | .periodTimerExpiry _ | .onTimerExpiry _ | .refreshTimerExpiry _
  | .minuteTimerExpiry | .relayDeadlineExpiry | .reportTimerExpiry | .holdLimitExpiry | .cycleTimerExpiry
  | .fieldSilenceExpiry | .idleTimerExpiry | .sweepTimerExpiry => true
  | _ => false

/-- The management requests (R169). -/
def isRequest : Instr → Bool
  | .stat | .chan _ | .attr _ | .evnt _ | .amsk _ | .openTransfer _ _ _ | .chnk _ _ | .flsh | .eras _ | .rlck | .clrh
  | .rfsl | .srst | .frst | .malformedManagementRequest => true
  | _ => false

/-- The commands that set or lose every block (R116, R166, R176). -/
def resetsAll : Instr → Bool
  | .powerUp | .powerLoss | .fullRestartEffect => true
  | _ => false

/-- The commands that can install a working copy by themselves (R161, R162, R165). -/
def installsCopy : Instr → Bool
  | .managementWriteComplete | .eraseComplete | .checkStepComplete => true
  | _ => false

/-- The commands that offer a sample or end a channel's freshness (R5, R14). -/
def reachesChannels : Instr → Bool
  | .sampleFrame _ _ _ _ _ | .freshnessExpiry _ => true
  | _ => false

/-- The commands that reach the Demand Record (R21 to R24). -/
def reachesDemand : Instr → Bool
  | .demandFrame _ _ | .demandTimerExpiry => true
  | _ => false

/-- The commands that reach the cycle master: its timers, and the frames of the field segment (R135, R136). -/
def reachesCycle : Instr → Bool
  | .cycleTimerExpiry | .fieldSilenceExpiry | .fieldManagementFrame _ | .fieldFrameOther => true
  | .sampleFrame id _ _ _ _ | .ownCommandFrame id => id == .field
  | _ => false

/-- The commands that can replace or clear the Last Refusal record (R142, R143, R147, R175). -/
def reachesRefusal : Instr → Bool
  | .demandFrame _ _ | .mrqNotManaging _ | .fieldManagementFrame _ | .upstreamCommand _ _ _ | .broadcastCommand _ _ => true
  | .frameSent id => id == .upstream
  | _ => false

/-- The commands that reach the mailbox or the transfer: the requests, the end of a response's try, the idle
timer, and the store's completions (R168 to R172). -/
def reachesMailbox (c : Instr) : Bool :=
  match c with
  | .frameSent id => id == .upstream
  | .idleTimerExpiry | .recordWriteComplete | .managementWriteComplete | .eraseComplete | .fetchReadComplete => true
  | _ => isRequest c

/-- The commands that begin or end an operation on the store port (R160). -/
def reachesStorePort : Instr → Bool
  | .storePortGrant | .recordWriteComplete | .managementWriteComplete | .eraseComplete | .fetchReadComplete
  | .checkStepComplete | .repairWriteComplete => true
  | _ => false

/-! ### Invariants -/

/-- FRC is closed exactly in IGNT, WARM and FIRE, LKL follows the state, and an Attempt Record exists exactly
in CHEK to POST with that phase (R34, R39, R40). -/
def HardLines (s : State) : Prop :=
  s.seq.frc = s.seq.sup.fuel ∧ s.seq.lkl = s.seq.sup.lamp ∧ s.seq.attempt.isSome = s.seq.sup.inAttempt
    ∧ ∀ a, s.seq.attempt = some a → a.phase = s.seq.sup

/-- No valve-open frame is in the Sequencer slot, or waits at the Field Port to be sent again, outside IGNT,
WARM and FIRE; the current set's valve is open exactly there (R35, R38). The Upstream Port sends the queue's
frames alone (R133). -/
def ValveGuard (s : State) : Prop :=
  s.seq.current.valve = s.seq.sup.fuel
    ∧ (∀ p, s.arb.pending = some p → p.set.valve = true → s.seq.sup.fuel = true)
    ∧ (∀ x, s.arb.inFlight = some x → x.frame.set.valve = true → s.seq.sup.fuel = true)
    ∧ (∀ t, s.field.trying = some t → t.owner = .sequencer → t.orphan = false →
        ∃ x, s.arb.inFlight = some x ∧ byteAt t.frame.payload 3 = x.frame.set.flags)
    ∧ (∀ t, s.field.trying = some t → t.orphan = true → t.onLine = true)
    ∧ ∀ t, s.up.trying = some t → t.owner = .utq

/-- Where the Relay slot's frame has been answered at its deadline, a relay try at the Field Port is on the line
(R150; log 21). -/
def LateSlot (s : State) : Prop :=
  slotLate s = true → ∀ t, s.field.trying = some t → t.owner = .relay → t.onLine = true

/-- The Output Set of R35, column by column. -/
def setOf (s : State) : OutputSet :=
  { fan := match s.seq.sup with
      | .purg | .post => (schedule s).purgeFan
      | .ignt => (schedule s).ignitionFan
      | .warm => (schedule s).lowFire
      | .fire => s.demand.rate
      | .stby | .chek | .cond | .rcyw | .cold | .lock | .flck => 0
    lineHeater := match s.seq.sup with
      | .cond | .purg | .ignt | .warm => s.seq.heater
      | .cold => true
      | .stby | .chek | .fire | .post | .rcyw | .lock | .flck => false
    preheater := match s.seq.sup with
      | .cond | .purg | .ignt | .warm => true
      | .fire => (schedule s).keepWarm
      | .stby | .chek | .post | .rcyw | .cold | .lock | .flck => false
    ignition := s.seq.sup == .ignt
    valve := s.seq.sup == .ignt || s.seq.sup == .warm || s.seq.sup == .fire
    rate := match s.seq.sup with
      | .ignt | .warm => (schedule s).lowFire
      | .fire => s.demand.rate
      | .stby | .chek | .cond | .purg | .post | .rcyw | .cold | .lock | .flck => 0
    damper := s.seq.sup != .stby }

/-- The frost debt of every zone is at most twice its trigger (R99). -/
def DebtsBounded (s : State) : Prop := ∀ z : Fin 6, (zone s z).debt ≤ 2 * (zoneRec s z).trigger

/-- A page 14 content whose reset list has ages below 60; its length is at most three by its layout (R117). -/
def AgesOk (c : Content) : Prop := ∀ age ∈ (decodeLock c).resets, age < 60

/-- The reset list holds ages below 60 in the working copy, in a valid stored page and in a write in flight, and
management names the pages 0 to 13 alone (R117, R155, R170). -/
def ResetListForm (s : State) : Prop :=
  AgesOk (pageOf s 14)
    ∧ ((storedOf s 14).ok = true → AgesOk (storedOf s 14).content)
    ∧ (∀ c answers, s.store.op = some (.recordWrite 14 c answers) → AgesOk c)
    ∧ (∀ c, s.store.op = some (.repair 14 c) → AgesOk c)
    ∧ (∀ p c part, s.store.op = some (.write p c part) → p ≤ 13)
    ∧ (∀ p, s.store.op = some (.erase p) → p ≤ 13)
    ∧ (∀ p part, s.store.mgmtClaim = some (.write p part) → p ≤ 13)
    ∧ (∀ p, s.store.mgmtClaim = some (.erase p) → p ≤ 13)
    ∧ (∀ p c n, s.mgmt.transfer = .loading p c n → p + n ≤ 13)
    ∧ ∀ p n, s.mgmt.transfer = .writing p n → p + n ≤ 13

/-- The number of queued frames of a kind. -/
def countKind (k : Kind) (q : List UtqEntry) : Nat := (q.filter (fun e => e.frame.kind == k)).length

/-- The samples of the queue, by source and sample set. -/
def sampleKeys (q : List UtqEntry) : List (Nat × Nat) :=
  (q.filter (fun e => e.frame.kind == .smp)).map (fun e => (e.frame.src, e.frame.sub))

/-- The kinds of frames the part sends upstream (R151). -/
def sentUpstream : Kind → Bool
  | .smp | .rep | .mrs | .alr => true
  | .cmd | .mrk | .dmd | .mrq => false

/-- The form of the Upstream Transmit Queue (R151), with at most its head on the line (R152). -/
def UtqForm (q : List UtqEntry) : Prop :=
  (∀ e ∈ q, sentUpstream e.frame.kind = true) ∧ q.length ≤ 10 ∧ countKind .rep q ≤ 1 ∧ countKind .mrs q ≤ 1 ∧ countKind .alr q ≤ 1 ∧ (sampleKeys q).Nodup
    ∧ ∀ e ∈ q.drop 1, e.onLine = false

/-- At most one entry per station in the Frost queue, and at most its head in flight (R105). -/
def FrostForm (q : List FrostEntry) : Prop :=
  (q.map (·.station)).Nodup ∧ ∀ e ∈ q.drop 1, e.inFlight = false

/-- A channel's reading lies between its binding's clamps (R12). -/
def Clamped (b : Binding) (c : Channel) : Prop :=
  ∀ r, c.reading = some r →
    b.low ≤ r.v ∧ r.v ≤ b.high ∧ b.low ≤ r.f ∧ r.f ≤ b.high ∧ 16 * b.low ≤ r.acc ∧ r.acc ≤ 16 * b.high

/-- Every reading lies between the clamps of its channel's binding, and an unbound channel has none (R12, R16). -/
def ClampedChannels (s : State) : Prop :=
  ∀ k : Fin 14,
    (bindingOf s k = none → (chan s k).reading = none)
    ∧ ∀ b, bindingOf s k = some b → b.low ≤ b.high → Clamped b (chan s k)

/-- The pending set of record writes holds record pages, ascending and without duplicates (R115, R160). -/
def PendingForm (l : List Nat) : Prop := l.Pairwise (· < ·) ∧ ∀ p ∈ l, 14 ≤ p ∧ p ≤ 18

/-- No copy of a page 0 to 13 is deferred while the part rests in STBY, LOCK or FLCK (R161). -/
def QuietInstalled (s : State) : Prop := s.seq.sup.quiet = true → deferredPages s = []

/-! ### What the statements name -/

/-- An event is latched (R173). -/
def latched (s : State) (e : Event) : Bool := s.mgmt.events.getLsbD e.bit

/-- A new attempt began in CHEK, as R43 and R40 give, with the sequence number of page 14 taken (R122). -/
def BeginsAttempt (s t : State) : Prop :=
  t.seq.sup = .chek ∧ t.seq.frc = false ∧ t.seq.timers.chekMax = .running (s.now + 30000)
    ∧ t.seq.current = { OutputSet.standby with damper := true }
    ∧ t.seq.attempt =
        some
          { sequence := (lockPage s).nextSeq
            cause := if s.frost.boilerCall || s.frost.zoneCall then .frost else .heat
            phase := .chek, furthest := .chek, start := s.now, phaseEntry := s.now
            outdoor := usableF s cOutdoor, oilLine := usableF s cOil, preheat := none, suction := none
            diverterBase := none, proof := false, flueBase := none, outcome := none }
    ∧ (lockPage t).nextSeq = ((lockPage s).nextSeq + 1) % 65536 ∧ 14 ∈ t.store.pendingRec

/-- The attempt `a` of `s` ended with outcome `o`, promoted where R60 says: its summary placed, the lockout
record set, its events latched, and the state moved (R41, R44, R114, R121). In the summary's bytes absent
temperatures are 0 (log 38), and the reason of a Normal Stop (log 54). -/
def Decided (s : State) (a : Attempt) (o : AttemptEnd) (t : State) : Prop :=
  t.seq.sup = nextAfter s.seq.sup (promoted s o) ∧ t.seq.frc = false
    ∧ t.seq.failCount = countAfter s (promoted s o)
    ∧ (t.seq.sup = .post → ∃ b, t.seq.attempt = some b ∧ b.outcome = some (promoted s o) ∧ b.sequence = a.sequence)
    ∧ (∀ e ∈ eventsAfter o (promoted s o), latched t e = true)
    ∧ pageOf t (slotPage (summarySlot s)) =
        splice (pageOf s (slotPage (summarySlot s))) (slotOffset (summarySlot s))
          (encodeSummary (summaryOf a (promoted s o) s.now))
    ∧ slotPage (summarySlot s) ∈ t.store.pendingRec
    ∧ (∀ r, promoted s o = .lockout r →
        (lockPage t).locked = true ∧ (lockPage t).reason = some r ∧ (lockPage t).sequence = some (a.sequence % 65536)
          ∧ 14 ∈ t.store.pendingRec)

/-- The state with the sample taken at channel `k` and nothing else done (R5 to R13). -/
def sampled (s : State) (k : Fin 14) (payload : List Byte) : State :=
  match bindingOf s k with
  | some b => setChan k (takeSample b s.now payload (chan s k)).chan s
  | none => s

/-- The SMP completes at a port that follows it, feeds channel `k` alone, and changes its record (R5, R6, R15). -/
def FeedsAlone (s : State) (id : PortId) (dst src sampleSet : Nat) (payload : List Byte) (k : Fin 14) : Prop :=
  s.powered = true ∧ canReceive (port s id) = true ∧ (Instr.sampleFrame id dst src sampleSet payload).wellFormed = true
    ∧ deferredPages s = [] ∧ fedChannels s src sampleSet payload = [k]
    ∧ ∀ b, bindingOf s k = some b → (takeSample b s.now payload (chan s k)).changed = true

/-- Channel `k` of `s` has been rebound to its binding in `t`: nothing measured is left, and the time of its last accepted
sample is kept (R16). -/
def Rebound (s t : State) (k : Fin 14) : Prop :=
  chan t k =
    match bindingOf t k with
    | some b =>
      { state := .awaiting, reading := none, count := 0, lastTime := (chan s k).lastTime
        timer := .running (s.now + 1000 * b.freshness) }
    | none => { state := .unbound, reading := none, count := 0, lastTime := (chan s k).lastTime, timer := .stopped }

/-- No passage out of CHEK to FIRE is open but for those of missing requests, an overheat and a lost water channel
(R43 to R50, R54, R90, R92). -/
def Undisturbed (s : State) : Prop :=
  match s.seq.sup with
  | .chek => chekMet s = false
  | .cond => flamePresent s = false ∧ condMet s = false
  | .purg => flamePresent s = false ∧ purgMet s = false
  | .ignt => flamePresent s = false ∧ spills s = false
  | .warm => spills s = false ∧ flueIsHigh s = false ∧ flameLost s = false
  | .fire => spills s = false ∧ flueIsHigh s = false ∧ flameLost s = false ∧ isUsable s cFlue = true
  | .stby | .post | .rcyw | .cold | .lock | .flck => True

/-- The mailbox can take a request: the supply is there, the Upstream Port can receive, the mailbox is Empty,
and the queue upstream has its form (R151, R168). -/
def TakesRequest (s : State) : Prop :=
  s.powered = true ∧ canReceive s.up = true ∧ s.mgmt.mailbox = .empty ∧ UtqForm s.relay.utq

/-- The response of a command stands in the queue upstream, and the mailbox waits for it to be sent (R168). -/
def Answered (t : State) (code : Nat) (st : Status) (data : List Byte) : Prop :=
  t.mgmt.mailbox = .answering
    ∧ ∃ e ∈ t.relay.utq, e.frame =
        { dst := managingStation t, src := ownStation t, kind := .mrs, sub := 0
          payload := [byteOf code, byteOf st.code, byteOf st.reasonCode] ++ data }

/-- The port sends this ack byte: it keeps its line state until the byte's stop bit, within its ack position, at which it
returns to Idle (R129; `passGap`). Where in the position the byte stands is free (log 56); that its 1 to 2 character
times are 3 to 5 ms is the model's rounding (log 9). -/
def SendsAck (s t : State) (id : PortId) (a : Ack) : Prop :=
  ∃ stopBit, s.now + 3 ≤ stopBit ∧ stopBit ≤ s.now + 5
    ∧ port t id = { port s id with gap := .answering stopBit, dominant := .stopped, answer := some a }

/-- The request was acknowledged, and outside the Management Unit, the Upstream Port and the queue upstream
nothing changed; `m` is the Management Unit but for its events, to which the offer can add Upstream Drop
(R129, R151; log 9, 56). -/
def OnlyAnswers (s t : State) (m : Mgmt) : Prop :=
  t = { s with up := t.up, relay := { s.relay with utq := t.relay.utq }, mgmt := t.mgmt, order := t.order, freeIndex := t.freeIndex }
    ∧ SendsAck s t .upstream .ack
    ∧ t.mgmt = { m with mailbox := .answering, events := t.mgmt.events }
    ∧ (t.mgmt.events = m.events ∨ t.mgmt.events = m.events ||| Event.upstreamDrop.only)

/-- The state with the mailbox Executing, as a command finds it (R168). -/
def executing (s : State) : State := { s with mgmt := { s.mgmt with mailbox := .executing } }

/-- A code waits in the Frost queue for a station, in the entry's frame or as its successor (R105). -/
def Queued (t : State) (station code : Nat) (release : Bool) : Prop :=
  ∃ e ∈ t.arb.frostQ, e.station = station
    ∧ ((e.frame.code = code ∧ e.frame.release = release)
      ∨ ∃ f, e.successor = some f ∧ f.code = code ∧ f.release = release)

/-- The release codes a zone's record names wait for their stations, where no other zone held them in `s` (R104).
A pump station that is the valve station too gets the close code. -/
def ReleasesQueued (s t : State) (z : Fin 6) : Prop :=
  (∀ v, (zoneRec s z).valve = some v → heldByOther s z v.station = false → Queued t v.station v.releaseCode true)
    ∧ ∀ p, (zoneRec s z).pump = some p → heldByOther s z p.station = false →
        (zoneRec s z).valve.all (fun v => v.station != p.station) = true → Queued t p.station p.releaseCode true

/-- The on and open codes a zone's record names wait for their stations (R104). -/
def HoldsQueued (s t : State) (z : Fin 6) : Prop :=
  (∀ v, (zoneRec s z).valve = some v → Queued t v.station v.holdCode false)
    ∧ ∀ p, (zoneRec s z).pump = some p → (zoneRec s z).valve.all (fun v => v.station != p.station) = true →
        Queued t p.station p.holdCode false

/-- The commands that fail a field try in its ack position: it ends with no ack (R130), the ack byte is NAK-B, NAK-T or
none of the six codes or has a dominant stop bit (R128), or the frame collides (R132). -/
def failsFieldTry : Instr → Bool
  | .ackPositionEnd => true
  | .ackByte value stopGood => !stopGood || !(value == 0x60 || value == 0x61 || value == 0x71 || value == 0x72)
  | .collision id => id == .field
  | _ => false

/-- The port's try begins now with this frame. -/
def Sends (t : State) (id : PortId) (owner : Owner) (f : Frame) : Prop :=
  (port t id).line = .transmitting
    ∧ (port t id).trying = some { owner := owner, frame := f, onLine := true, orphan := false, hold := .stopped }

/-! ### What a page is accepted for (R4, R65, R81, R96, R140, R145, R158, R180 to R182) -/

/-- Bytes `i` to `j - 1` of a content are 0 (R180). -/
def ZeroBetween (c : List Byte) (i j : Nat) : Prop := ∀ n, n < j → i ≤ n → byteAt c n = 0

/-- The numeric items of the Schedule: the first byte, whether there are two, the least and the greatest value
(R180). -/
def scheduleItems : List (Nat × Bool × Nat × Nat) :=
  [(0, false, 10, 120), (1, true, 30, 300), (3, false, 50, 100), (4, false, 20, 100), (5, false, 2, 10), (6, true, 60, 600),
    (8, true, 50, 800), (10, false, 20, 60), (11, false, 60, 100), (13, true, 0, 300), (15, true, 60, 900),
    (17, true, 30, 600), (19, false, 0, 3), (20, false, 2, 20), (21, false, 2, 30), (22, true, 60, 1200),
    (24, true, 120, 3600), (26, false, 0, 1)]

/-- The items of Limits: the first byte, the least and the greatest value (R180). -/
def limitsItems : List (Nat × Int × Int) :=
  [(0, 800, 1000), (2, 0, 1000), (4, 0, 1000), (6, 20, 150), (8, 1500, 3500), (10, 200, 1500), (12, 50, 400), (14, 100, 900),
    (16, 0, 900), (18, 0, 200), (20, -100, 150), (22, 300, 900), (24, 30, 150), (26, 100, 400), (28, 200, 600)]

/-- A binding's core is Unbound with nothing after its source byte, or has every field in its range (R4, R180). -/
def CoreInRange (k : Nat) (b : List Byte) : Prop :=
  match decodeBinding b with
  | none => ZeroBetween b 1 13
  | some d =>
    d.source ≤ 47 ∧ d.mask ≤ 63 ∧ byteAt b 2 % 4 ≤ 2 ∧ d.offsetByte ≤ 19
      ∧ d.offsetByte + (if d.wide then 2 else 1) ≤ 20
      ∧ d.shift ≤ (if k = 3 then 1 else 6) ∧ 1 ≤ d.freshness ∧ d.freshness ≤ 60

/-- A binding's used marker words lie in the raw range of its core, and the unused ones are 0 (R4, R180, R182): so
also on page 5 while the core's count is 0, against the loading order of R182's last paragraph (log 57). -/
def MarkersInRange (b : List Byte) : Prop :=
  ∀ j, j < 2 →
    if byteAt b 0 ≠ 0 ∧ j < byteAt b 2 % 4 then
      (byteAt b 2).testBit 3 = true
        ∨ (if (byteAt b 2).testBit 2 then -128 ≤ s16At b (13 + 2 * j) ∧ s16At b (13 + 2 * j) ≤ 127
           else u16At b (13 + 2 * j) ≤ 255)
    else u16At b (13 + 2 * j) = 0

/-- The permit entry at byte `i` is empty, or has its fields in their ranges and no others (R145, R180). -/
def PermitInRange (c : Content) (i : Nat) : Prop :=
  if byteAt c i % 32 ≠ 0 then byteAt c i % 32 ≤ 19
  else
    (byteAt c (i + 2) / 16 = 0 ∧ ZeroBetween c i (i + 4)) ∨ byteAt c (i + 2) / 16 = 2
      ∨ ((byteAt c (i + 2) / 16 = 1 ∨ byteAt c (i + 2) / 16 = 3) ∧ byteAt c (i + 2) % 16 = 0 ∧ byteAt c (i + 3) = 0)

/-- The zone record at byte `i` has its fields in their ranges, and an absent station's bytes are 0 (R96, R180). -/
def ZoneInRange (c : Content) (i : Nat) : Prop :=
  byteAt c i ≤ 7 ∧ -50 ≤ s16At c (i + 1) ∧ s16At c (i + 1) ≤ 150
    ∧ 6000 ≤ u32At c (i + 3) ∧ u32At c (i + 3) ≤ 2000000 ∧ s16At c (i + 7) ≤ 300
    ∧ ∀ x ∈ [(1, i + 9), (2, i + 12)],
        if (byteAt c i).testBit x.1 then
          1 ≤ byteAt c x.2 ∧ byteAt c x.2 ≤ 47 ∧ byteAt c (x.2 + 1) ≤ 254 ∧ byteAt c (x.2 + 2) ≤ 254
        else ZeroBetween c x.2 (x.2 + 3)

/-- The content of page `p` fails no test of reason Range (R158, R180). That the class of an Absent or Own entry of
page 1 may be any of 0 to 6 is the model's choice (log 60). -/
def InRange (p : Nat) (c : Content) : Prop :=
  c.length = 62 ∧
  match p with
  | 0 =>
    (∀ i ∈ [0, 1], 1 ≤ byteAt c i ∧ byteAt c i ≤ 47) ∧ byteAt c 0 ≠ byteAt c 1 ∧ ZeroBetween c 2 62
  | 1 => (∀ i, i < 47 → byteAt c i / 16 ≤ 3 ∧ byteAt c i % 16 ≤ 6) ∧ ZeroBetween c 47 62
  | 2 | 3 | 4 | 5 =>
    (∀ k, k < 14 → corePage k = p → CoreInRange k (bindingBytes (fun _ => c) k))
      ∧ (∀ k, k < 14 → corePage k = p → (markerPlace k).1 = p → MarkersInRange (bindingBytes (fun _ => c) k))
      ∧ ZeroBetween c (if p = 5 then 58 else 60) 62
  | 6 | 7 => (∀ k, k < 15 → PermitInRange c (4 * k)) ∧ ZeroBetween c 60 62
  | 8 =>
    (∀ x ∈ scheduleItems,
        x.2.2.1 ≤ (if x.2.1 then u16At c x.1 else byteAt c x.1)
          ∧ (if x.2.1 then u16At c x.1 else byteAt c x.1) ≤ x.2.2.2)
      ∧ byteAt c 12 = 0 ∧ ZeroBetween c 27 62
  | 9 => (∀ x ∈ limitsItems, x.2.1 ≤ s16At c x.1 ∧ s16At c x.1 ≤ x.2.2) ∧ ZeroBetween c 30 62
  | 10 =>
    2 ≤ byteAt c 0 / 16 ∧ byteAt c 0 / 16 ≤ 8 ∧ 2 ≤ byteAt c 0 % 16 ∧ byteAt c 0 % 16 ≤ 8
      ∧ (∀ q ∈ preheatCurve c, -500 ≤ q.1 ∧ q.1 ≤ 500 ∧ q.2 ≤ 1200)
      ∧ (∀ q ∈ draughtCurve c, -500 ≤ q.1 ∧ q.1 ≤ 500 ∧ 10 ≤ q.2 ∧ q.2 ≤ 500)
      ∧ ZeroBetween c (1 + 3 * (byteAt c 0 / 16)) 25 ∧ ZeroBetween c (25 + 3 * (byteAt c 0 % 16)) 62
  | 11 | 12 => (∀ i ∈ [0, 15, 30], ZoneInRange c i) ∧ ZeroBetween c 45 62
  | 13 =>
    60 ≤ u16At c 0 ∧ u16At c 0 ≤ 1800 ∧ 600 ≤ u16At c 2 ∧ u16At c 2 ≤ 7200
      ∧ -300 ≤ s16At c 4 ∧ s16At c 4 ≤ 100
      ∧ ZeroBetween c 6 62
  | _ => True

/-- The content of page `p` fails no test of reason Order (R65, R81, R158). -/
def InOrder (p : Nat) (c : Content) : Prop :=
  match p with
  | 2 | 3 | 4 | 5 =>
    ∀ k, k < 14 → corePage k = p → (decodeBinding (bindingBytes (fun _ => c) k)).all (fun d => d.low < d.high) = true
  | 6 | 7 => ∀ k, k < 15 → byteAt c (4 * k) % 32 ≠ 0 → byteAt c (4 * k + 2) ≤ byteAt c (4 * k + 3)
  | 8 => u16At c 13 ≤ u16At c 15
  | 9 => s16At c 16 < s16At c 14 ∧ s16At c 2 < s16At c 4 ∧ s16At c 10 < s16At c 8 ∧ s16At c 24 < s16At c 26
  | 10 =>
    (preheatCurve c).Pairwise (fun q r => q.1 < r.1 ∧ r.2 ≤ q.2) ∧ (draughtCurve c).Pairwise (fun q r => q.1 < r.1)
  | 11 | 12 =>
    ∀ i ∈ [0, 15, 30], s16At c (i + 1) < s16At c (i + 7)
      ∧ ((byteAt c i).testBit 1 = true → byteAt c (i + 10) ≠ byteAt c (i + 11))
      ∧ ((byteAt c i).testBit 2 = true → byteAt c (i + 13) ≠ byteAt c (i + 14))
  | 13 => u16At c 0 < u16At c 2
  | _ => True

/-- The three conditions of R140 between Identity and the Station Map: the own station is the one Own entry, one entry
is a Field entry of class Burner, and the managing station is an Upstream entry. -/
def MapConditions (identity map : Content) : Prop :=
  (∀ n ∈ stations, segmentOf map n = .own ↔ n = byteAt identity 0) ∧ byteAt identity 0 ∈ stations
    ∧ (∃ b ∈ stations, ∀ n ∈ stations, (segmentOf map n = .field ∧ classOf map n = 0) ↔ n = b)
    ∧ segmentOf map (byteAt identity 1) = .upstream

/-- The pump and the valve of a zone record are Field entries of their classes, and differ (R96). -/
def StationsFit (map : Content) (z : ZoneRec) : Prop :=
  (∀ x ∈ z.pump, segmentOf map x.station = .field ∧ classOf map x.station = 2)
    ∧ (∀ x ∈ z.valve, segmentOf map x.station = .field ∧ classOf map x.station = 3)
    ∧ ∀ x ∈ z.pump, ∀ y ∈ z.valve, x.station ≠ y.station

/-- Page `p` fails no test of reason Cross-check, where `page q` is what page `q` will hold (R140, R158, R182).
For the marker words R182's Validation is followed, against the loading order of its last paragraph (log 57). -/
def CrossChecks (p : Nat) (page : Nat → Content) : Prop :=
  match p with
  | 0 => MapConditions (page 0) (page 1)
  | 1 =>
    MapConditions (page 0) (page 1)
      ∧ ∀ q ∈ [11, 12], ∀ i ∈ [0, 15, 30], StationsFit (page 1) (zoneRecAt (page q) i)
  | 2 | 3 | 4 | 5 =>
    ∀ k ∈ [2, 3, 6, 7, 10, 11], corePage k = p ∨ p = 5 → MarkersInRange (bindingBytes page k)
  | 11 | 12 => ∀ i ∈ [0, 15, 30], StationsFit (page 1) (zoneRecAt (page p) i)
  | _ => True

/-! ### What a start loads (R116, R156, R159) -/

/-- Installer pages 0 and 1 of the store can be loaded together: not both are valid, or they fit each other (R159). -/
def PairFits (s : State) : Prop :=
  (storedOf s 0).ok = true → (storedOf s 1).ok = true → MapConditions (storedOf s 0).content (storedOf s 1).content

/-- The working copies of `t` are the ones a start loads from the pages of `s`, with the record pages it writes back and
the events it latches (R116, R156, R159). Every copy is sound and not deferred. That each byte of an empty slot is 0 is
the model's reading (log 38). -/
def LoadsCopies (s t : State) : Prop :=
  (∀ p, p < 14 → (p < 2 → PairFits s) → copyOf t p = fromStore s p)
    ∧ (¬PairFits s →
        (∀ p, p < 2 → copyOf t p = Copy.sound (factoryOf s p).content .factory) ∧ latched t .storeFault = true)
    ∧ copyOf t 14 =
        Copy.sound (if (storedOf s 14).ok then (storedOf s 14).content else encodeLock LockPage.recordLost) .record
    ∧ (∀ p, 14 < p → p < 19 →
        copyOf t p =
          Copy.sound (if (storedOf s 14).ok && (storedOf s p).ok then (storedOf s p).content else zeroContent) .record)
    ∧ (∀ p ∈ [19, 20], copyOf t p = Copy.sound (storedOf s p).content .factory)
    ∧ (∀ p, p ∈ t.store.pendingRec ↔
        14 ≤ p ∧ p < 19 ∧ ((storedOf s 14).ok = false ∨ (storedOf s p).ok = false))
    ∧ ((∃ p, 14 ≤ p ∧ p < 19 ∧ (storedOf s p).ok = false) → latched t .storeFault = true)
    ∧ (latched t .lockoutEntered = !(storedOf s 14).ok)
    ∧ (PairFits s → (∀ p, 14 ≤ p → p < 19 → (storedOf s p).ok = true) → t.mgmt.events = 0)

/-- A start has set every block but the ports, and the stored pages, as at power-up; `s` gives the pages it started from
and `t.now` the time of the start.
The events latched by the loading are those of `LoadsCopies`; the one alert they raise alone stands in the queue upstream,
which is empty without it (R116, R152, R159, R174). The flag beside the page buffer, which every Fetch writes before a
chunk shows it, is not fixed (log 33). -/
def StartsBlocks (s t : State) : Prop :=
  -- every channel record by its binding (R3, R19)
  (∀ k : Fin 14,
    chan t k =
      match bindingOf t k with
      | some b =>
        { state := .awaiting, reading := none, count := 0, lastTime := none, timer := .running (t.now + 1000 * b.freshness) }
      | none => { state := .unbound, reading := none, count := 0, lastTime := none, timer := .stopped })
  -- the Demand Record, with the effective rate (R21, R31)
  ∧ t.demand =
      { state := .absent, level := none, target := none, timer := .stopped, heatCall := false
        rate := clampNat (schedule t).lowFire (schedule t).highFire (schedule t).lowFire }
  ∧ ((schedule t).lowFire ≤ (schedule t).highFire → t.demand.rate = (schedule t).lowFire)
  -- the zones and the frost calls: no channel is usable yet (R97, R113)
  ∧ t.frost.boilerCall = false ∧ t.frost.zoneCall = false
  ∧ (∀ z : Fin 6,
      zone t z =
        { state := if (zoneRec t z).enabled then .sensorlessDuty false else .disabled
          debt := 0, lastAccrual := none
          period := if (zoneRec t z).enabled then .running (t.now + 1000 * (frostSettings t).period) else .stopped
          on := .stopped, refresh := .stopped, pumpOwed := none, valveOwed := none })
  -- the Relay Unit (R147, R150, R152, R153)
  ∧ t.relay =
      { record := none, lastRefusal := none, report := .running (t.now + 2000)
        utq :=
          if t.mgmt.events = 0 then []
          else
            [{ frame :=
                 { dst := managingStation t, src := ownStation t, kind := .alr, sub := 0
                   payload := word24 t.mgmt.events.toNat }
               onLine := false, renewed := false }] }
  -- the cycle master (R135, R136)
  ∧ t.cyc = { timer := .running (t.now + 250), index := 0, silence := .running (t.now + 5000) }
  -- the Sequencer, with the all-off set of its state current and pending (R35, R40, R64, R70, R137)
  ∧ t.seq =
      { sup := t.seq.sup, current := { OutputSet.standby with damper := t.seq.sup != .stby }, heater := false
        attempt := none, failCount := 0, flameClear := false, timers := {}, rePlace := .stopped, frc := false
        lkl := t.seq.sup.lamp }
  ∧ t.arb =
      { inFlight := none, pending := some { dst := burnerStation t, set := t.seq.current }, markWaiting := none
        markOnLine := none, relaySlot := none, frostQ := [] }
  -- the Flue Check Unit and the Lockout Unit (R80, R116, R117, R120)
  ∧ t.flue = { proof := .stopped, loss := .stopped, watch := .off, proofTime := none, lossTime := none }
  ∧ t.lock = { factoryFault := !factoryWhole s, minute := .running (t.now + 60000) }
  -- the store port and the sweep (R160, R163)
  ∧ t.store.op = none ∧ t.store.portTimer = .stopped ∧ t.store.sweepClaim = none ∧ t.store.mgmtClaim = none
  ∧ t.store.sweepPos = 0 ∧ t.store.sweepTimer = .running (t.now + 5000) ∧ t.store.heldIdentity = none
  -- the Management Unit (R168, R170, R173, R174, R176)
  ∧ t.mgmt.mailbox = .empty ∧ t.mgmt.wait = .nothing ∧ t.mgmt.transfer = .closed ∧ t.mgmt.buffer = zeroContent
  ∧ t.mgmt.idle = .stopped ∧ t.mgmt.mask = defaultAlertMask ∧ t.mgmt.lastReject = none ∧ t.mgmt.restart = .nothing
  ∧ ∀ e : Event, e ≠ .storeFault → e ≠ .lockoutEntered → latched t e = false

/-! ### What the part's frames and responses show (R33, R178, R179) -/

/-- The codes of chapter 12, each list in the order of its table (R33, R178, R179), and 0 for the reason of a Normal
Stop, for which it has none (log 54). -/
def CodesAsTabled : Prop :=
  [SupState.stby, .chek, .cond, .purg, .ignt, .warm, .fire, .post, .rcyw, .cold, .lock, .flck].map SupState.code = List.range 12
    ∧ [Event.attemptFailed, .lockoutEntered, .flameLost, .draughtFailed, .flueNotRising, .spillage, .waterOverheat,
        .coldHoldEntered, .channelFaulted, .channelStale, .demandStale, .frostProtectionStarted, .relayTimeout,
        .fieldNoAnswer, .upstreamDrop, .storeFault, .lineStuck, .fieldSilent, .resetRefused, .pageRejected].map Event.bit
        = List.range 20
    ∧ [Reason.falseFlame, .spillage, .waterOverheat, .ignitionFailed, .flameLost, .draughtFailed, .draughtLost,
        .flueNotRising, .flueHigh, .preheatFailed, .burnerNoAnswer, .coldOil, .sensorNotReady, .downdraught, .checkNotMet,
        .sensorLost, .storeFault, .factoryFault, .recordLost].map Reason.code = (List.range 19).map (· + 1)
    ∧ [ZoneState.disabled, .quiet, .accruing, .protecting, .sensorlessHeld, .sensorlessDuty false, .sensorlessDuty true].map
        ZoneState.code = List.range 7
    ∧ [ChanState.unbound, .awaiting, .fresh, .limited, .stale, .faulted].map ChanState.code = List.range 6
    ∧ [DemandState.absent, .live, .stale].map DemandState.code = List.range 3
    ∧ [RefusalReason.owned, .table, .state, .frostHold, .notManaging].map RefusalReason.code = [1, 2, 3, 4, 5]
    ∧ [RejectReason.range, .order, .crossCheck, .incomplete].map RejectReason.code = [1, 2, 3, 4]
    ∧ [Status.done, .doneProtected, .busy, .rejected .range, .outOfRange, .noTransfer, .wrongOrder, .notLocked, .resetLimit].map
        Status.code = [0, 1, 2, 3, 4, 5, 6, 7, 7]
    ∧ [Status.done, .doneProtected, .busy, .rejected .order, .outOfRange, .noTransfer, .wrongOrder, .notLocked, .resetLimit].map
        Status.reasonCode = [0, 0, 0, 2, 0, 0, 0, 1, 2]
    ∧ AttemptEnd.normalStop.code = 1 ∧ AttemptEnd.normalStop.reasonCode = 0
    ∧ ∀ r : Reason, (AttemptEnd.failed r).code = 2 ∧ (AttemptEnd.notCounted r).code = 3 ∧ (AttemptEnd.lockout r).code = 4
        ∧ (AttemptEnd.failed r).reasonCode = r.code ∧ (AttemptEnd.notCounted r).reasonCode = r.code
        ∧ (AttemptEnd.lockout r).reasonCode = r.code

/-- An optional value stands in two bytes from byte `i` on, 0 when absent (chapter 12). -/
def ShowsValue (x : Option Int) (d : List Byte) (i : Nat) : Prop :=
  match x with
  | none => s16At d i = 0
  | some v => -32768 ≤ v → v ≤ 32767 → s16At d i = v

/-- The zone states stand as six nibbles from byte `i` on, zone 1 first (R178). -/
def ShowsZones (s : State) (d : List Byte) (i : Nat) : Prop :=
  ∀ z : Fin 6, byteAt d (i + z.val / 2) / (if z.val % 2 = 0 then 16 else 1) % 16 = (zone s z).state.code

/-- The event set stands in three bytes from byte `i` on, event n as bit n of the 24-bit number (R178). -/
def ShowsEvents (s : State) (d : List Byte) (i : Nat) : Prop :=
  65536 * byteAt d i + 256 * byteAt d (i + 1) + byteAt d (i + 2) = s.mgmt.events.toNat

/-- The real-time condition byte (R178), its bits without a field 0 (log 55). -/
def ShowsConditions (s : State) (n : Nat) : Prop :=
  n.testBit 0 = s.seq.frc ∧ n.testBit 1 = (s.seq.sup == .lock || s.seq.sup == .flck)
    ∧ n.testBit 2 = (s.demand.state == .live)
    ∧ n.testBit 3 = ((List.finRange 6).any (fun z => (zone s z).state.holds) || s.frost.boilerCall || s.frost.zoneCall)
    ∧ n.testBit 4 = s.link ∧ n.testBit 5 = (s.mgmt.transfer != .closed) ∧ n < 64

/-- The payload of a Supervisor Report (R178), its bits without a field 0 (log 55), and the cause bit too outside an
attempt (log 62). -/
def ShowsReport (s : State) (d : List Byte) : Prop :=
  d.length = 19 ∧ byteAt d 0 = s.seq.sup.code
    ∧ byteAt d 1 =
        (match s.seq.attempt with
         | none => 0
         | some a => a.phase.code + (if a.cause = .frost then 128 else 0))
    ∧ (byteAt d 2).testBit 0 = s.seq.frc ∧ byteAt d 2 < 64
    ∧ (∀ x ∈ [(1, cFlame, 3), (2, cWater, 5), (3, cFlue, 7), (4, cDraught, 9), (5, cOutdoor, 11)],
        (byteAt d 2).testBit x.1 = (chan s x.2.1).reading.isSome ∧ ShowsValue ((chan s x.2.1).reading.map (·.f)) d x.2.2)
    ∧ ShowsZones s d 13 ∧ ShowsEvents s d 16

/-- The data of STAT (R179), its bits without a field 0 (log 55). -/
def ShowsStat (s : State) (d : List Byte) : Prop :=
  d.length = 16 ∧ byteAt d 0 = s.seq.sup.code
    ∧ byteAt d 1 =
        (if s.demand.heatCall then 1 else 0) + (if s.frost.boilerCall then 2 else 0) + (if s.frost.zoneCall then 4 else 0)
          + 16 * s.demand.state.code
    ∧ byteAt d 2 = s.demand.level.getD 0 % 256 ∧ ShowsValue s.demand.target d 3
    ∧ byteAt d 5 = s.seq.failCount % 256 ∧ ShowsZones s d 6 ∧ ShowsEvents s d 9
    ∧ ShowsConditions s (byteAt d 12) ∧ byteAt d 13 = (occupiedSlots s).length
    ∧ byteAt d 14 =
        64 * (match s.mgmt.mailbox with | .empty => 0 | .executing => 1 | .answering => 2)
          + (match s.mgmt.transfer with | .closed => 0 | .loading _ _ _ => 1 | .writing _ _ => 2 | .fetching _ _ _ => 3)
    ∧ byteAt d 15 = (match s.mgmt.lastReject with | none => 0 | some r => r.code)

/-- The data of CHAN, where the channel's items are present; times are rounded down to 0.1 s (R179; log 17), and bits
without a field are 0 (log 55). -/
def ShowsChannel (s : State) (k : Fin 14) (d : List Byte) : Prop :=
  d.length = 14 ∧ byteAt d 0 = k.val
    ∧ byteAt d 1 =
        (chan s k).state.code + (if (chan s k).reading.isSome then 16 else 0) + (if (chan s k).lastTime.isSome then 32 else 0)
          + (if (chan s k).timer.isRunning then 64 else 0)
    ∧ byteAt d 2 = (chan s k).count % 256
    ∧ (∀ r ∈ (chan s k).reading,
        ShowsValue (some r.v) d 3 ∧ ShowsValue (some r.f) d 5
          ∧ (-8388608 ≤ r.acc → r.acc ≤ 8388607 →
              signed 24 (65536 * byteAt d 7 + 256 * byteAt d 8 + byteAt d 9) = r.acc))
    ∧ (∀ last ∈ (chan s k).lastTime,
        u16At d 10 = if 65535 < (s.now - last) / 100 then 65535 else (s.now - last) / 100)
    ∧ ((chan s k).timer.isRunning = true → (chan s k).timer.left s.now / 100 ≤ 65535 →
        u16At d 12 = (chan s k).timer.left s.now / 100)

/-- The six optional values of the Attempt Record, in the order of ATTR (R179). -/
def attemptValues (a : Attempt) : List (Option Int) :=
  [a.outdoor, a.oilLine, a.preheat.map Int.ofNat, a.suction, a.diverterBase, a.flueBase]

/-- The data of ATTR; seconds are rounded down (R179; log 17), and the reason is 0 while there is none (log 54). -/
def ShowsAttempt (s : State) (part : Nat) (d : List Byte) : Prop :=
  match s.seq.attempt with
  | none => d.length = 1 ∧ byteAt d 0 = part
  | some a =>
    byteAt d 0 = 128 + part
      ∧ (part = 0 →
          d.length = 11 ∧ u16At d 1 = a.sequence % 65536 ∧ byteAt d 3 = 16 * a.phase.code + a.furthest.code
            ∧ (byteAt d 4).testBit 0 = (a.cause == .frost) ∧ (byteAt d 4).testBit 1 = a.proof
            ∧ (∀ i, i < 6 → (byteAt d 4).testBit (i + 2) = ((attemptValues a).getD i none).isSome)
            ∧ byteAt d 5 = (match a.outcome with | none => 0 | some o => o.code)
            ∧ byteAt d 6 = (match a.outcome with | none => 0 | some o => o.reasonCode)
            ∧ ∀ x ∈ [(a.start, 7), (a.phaseEntry, 9)],
                (s.now - x.1) / 1000 ≤ 65535 → u16At d x.2 = (s.now - x.1) / 1000)
      ∧ (part = 1 → d.length = 13 ∧ ∀ i, i < 6 → ShowsValue ((attemptValues a).getD i none) d (1 + 2 * i))

/-- The data of RFSL (R179), its bits without a field 0 (log 55). -/
def ShowsRefusal (s : State) (d : List Byte) : Prop :=
  d.length = 5 ∧
  match s.relay.lastRefusal with
  | none => byteAt d 0 = 0
  | some r =>
    byteAt d 0 = 1 + (if r.code.isSome then 2 else 0) ∧ byteAt d 1 = r.origin % 256 ∧ byteAt d 2 = r.dst % 256
      ∧ (∀ c ∈ r.code, byteAt d 3 = c % 256) ∧ byteAt d 4 = r.reason.code

end Sys2Proof.Machine
end

