-- ==== Sys2Proof/Certificates/Slice0/Obligations.lean ====
section
/-! DEFINITION. The statements for the provers. -/

open Sys2Proof Sys2Proof.Machine

/-! ### The queue, the supply and the restarts -/

/-- A step runs the command at the front of the queue on the state with the queue's rest. -/
def Obligations.StepRunsFront : Prop :=
  ∀ (s : State) (c : Instr) (rest : List Instr),
    step { s with pending := c :: rest } = exec c { s with pending := rest }

/-- The model's choice (log 2): on an empty queue a step is one millisecond of powered time; without supply
nothing passes. An idle gap whose time has come elapses, and a port that waits for it in Receiving returns to
Idle (R125, R126, R132). A port that sends its own ack byte, in Receiving or, after a hold, in Holding, returns to Idle
at the byte's stop bit, and its idle gap begins (R129); that it keeps its line state until then is the model's reading
(log 56), the 5 ms of the gap its rounding (log 9). Nothing else changes at a port. -/
def Obligations.EmptyQueueIsAMillisecond : Prop :=
  ∀ (s : State), s.pending = [] →
    ∃ t, step s = .next t
      ∧ (s.powered = false → t = s)
      ∧ (s.powered = true → t = { s with now := s.now + 1, up := t.up, field := t.field })
      ∧ (s.powered = true → ∀ id ∈ [PortId.upstream, PortId.field],
          (∀ d, (port s id).gap = .running d → d ≤ s.now + 1 → (port s id).line = .idle ∨ (port s id).line = .receiving →
            port t id = { port s id with line := .idle, gap := .elapsed })
          ∧ (∀ d, (port s id).gap = .answering d → d ≤ s.now + 1 → (port s id).line = .receiving ∨ (port s id).line = .holding →
            port t id = { port s id with line := .idle, gap := .running (s.now + 6) })
          ∧ ((∀ d, (port s id).gap = .running d ∨ (port s id).gap = .answering d → s.now + 1 < d) → port t id = port s id)
          ∧ ((∀ d, (port s id).gap = .running d → (port s id).line ≠ .idle ∧ (port s id).line ≠ .receiving) →
              (∀ d, (port s id).gap = .answering d → (port s id).line ≠ .receiving ∧ (port s id).line ≠ .holding) →
              port t id = port s id))

/-- The supply. Without it only POWER_UP and the jumper change anything (the model's choice, log 7);
COMMISSIONING_LINK_CHANGE changes the link alone; POWER_LOSS leaves the page of a write, repair or erase in
flight invalid and every other stored page as it was (R166). -/
def Obligations.SupplyAndLink : Prop :=
  ∀ (s : State) (c : Instr),
    (s.powered = false → c ≠ .powerUp → (∀ b ∈ [true, false], c ≠ .commissioningLinkChange b) → exec c s = .next s)
    ∧ (∀ fitted ∈ [true, false], exec (.commissioningLinkChange fitted) s = .next { s with link := fitted })
    ∧ (s.powered = true →
        ∃ t, exec .powerLoss s = .next t
          ∧ t.powered = false ∧ t.seq.frc = false
          ∧ (∀ p, p < 21 →
              if s.store.op.bind StoreOp.spoils = some p then (storedOf t p).ok = false else storedOf t p = storedOf s p)
          ∧ t.store.factory = s.store.factory ∧ t.link = s.link ∧ t.pending = s.pending)

/-- What reset leaves in each block, and that each invariant below holds right after reset. The store of a shipped
part and its factory pages are the model's choice (log 5, 6); so is the powered time of 0 with its deadlines. -/
def Obligations.ResetLeaves : Prop :=
  State.reset.seq.sup = .stby ∧ State.reset.seq.frc = false ∧ State.reset.seq.lkl = .off
    ∧ State.reset.seq.attempt = none ∧ State.reset.seq.failCount = 0
    ∧ State.reset.seq.current = OutputSet.standby ∧ State.reset.arb.inFlight = none
    ∧ State.reset.arb.pending = some { dst := burnerStation State.reset, set := OutputSet.standby }
    ∧ State.reset.arb.markWaiting = none ∧ State.reset.arb.relaySlot = none ∧ State.reset.arb.frostQ = []
    ∧ State.reset.demand.state = .absent ∧ requests State.reset = false
    ∧ State.reset.demand.rate = (schedule State.reset).lowFire
    ∧ (∀ k : Fin 14, (chan State.reset k).reading = none ∧ (chan State.reset k).count = 0)
    ∧ (∀ z : Fin 6, (zone State.reset z).debt = 0 ∧ (zone State.reset z).state.holds = false)
    ∧ State.reset.relay.record = none ∧ State.reset.relay.utq = [] ∧ State.reset.cyc.index = 0
    ∧ State.reset.mgmt.mailbox = .empty ∧ State.reset.mgmt.transfer = .closed ∧ State.reset.mgmt.buffer = zeroContent
    ∧ State.reset.mgmt.events = 0 ∧ State.reset.mgmt.mask = defaultAlertMask ∧ State.reset.mgmt.lastReject = none
    ∧ State.reset.store.op = none ∧ State.reset.store.pendingRec = [] ∧ State.reset.store.sweepPos = 0
    ∧ HardLines State.reset ∧ ValveGuard State.reset ∧ UtqForm State.reset.relay.utq ∧ FrostForm State.reset.arb.frostQ
    ∧ PendingForm State.reset.store.pendingRec ∧ QuietInstalled State.reset ∧ ClampedChannels State.reset
    ∧ LateSlot State.reset ∧ DebtsBounded State.reset ∧ ResetListForm State.reset
    ∧ State.reset.seq.failCount ≤ (schedule State.reset).recycleLimit ∧ State.reset.seq.current = setOf State.reset

/-- POWER_UP: every working copy is loaded, pages 0 and 1 from their factory pages where the stored pair does not fit
(R156, R159); invalid record pages are emptied and written back, with Store Fault (R116); the supervisor state follows
from the stored page 14 and the factory image (R116); every other block has its start values (R3, R21, R31, R64, R97,
R113, R135 to R137, R152, R153), and both ports are Idle on a line not yet free (R125). That each byte of an empty history
slot is 0 is the model's reading (log 38), and the 5 ms of the idle gap are its rounding (log 9). -/
def Obligations.PowerUpDecidesTheState : Prop :=
  ∀ (s : State), s.powered = false →
    ∃ t, exec .powerUp s = .next t
      ∧ t.powered = true ∧ t.now = 0
      ∧ t.seq.sup =
          (if (storedOf s 14).ok = false ∨ (decodeLock (storedOf s 14).content).locked = true then .lock
           else if factoryWhole s = true then .stby else .flck)
      ∧ StartsBlocks s t
      ∧ (∀ id ∈ [PortId.upstream, PortId.field],
          port t id = { line := .idle, gap := .running 5, dominant := .stopped, answer := none, trying := none }
            ∧ mayTransmit (port t id) = false)
      ∧ lockPage t = (if (storedOf s 14).ok = true then decodeLock (storedOf s 14).content else LockPage.recordLost)
      ∧ LoadsCopies s t
      ∧ ((storedOf s 14).ok = false →
          latched t .storeFault = true ∧ latched t .lockoutEntered = true
            ∧ t.store.pendingRec = [14, 15, 16, 17, 18] ∧ occupiedSlots t = [])
      ∧ t.store.stored = s.store.stored ∧ t.store.factory = s.store.factory ∧ t.link = s.link ∧ t.pending = s.pending

/-- FULL_RESTART_EFFECT: armed and with a quiet store the working copies are loaded and every block is set as at
power-up (R3, R19, R21, R31, R64, R97, R113, R135 to R137, R152, R153), and the stored pages are kept; otherwise nothing
(R176). The ports are Idle with no try and their lines not free; a line held dominant stays in use
until it is released; a frame being received, and the ack position of a try that is cut short, go on as traffic for a
time that is free (R125, R138; log 40, 41).
That powered time runs on is the model's choice (log 8); the 5 ms of the idle gap are its rounding (log 9); that each
byte of an empty history slot is 0 is its reading (log 38). -/
def Obligations.FullRestartWaitsForAQuietStore : Prop :=
  ∀ (s : State), s.powered = true →
    (s.mgmt.restart = .fullArmed → s.store.op = none → s.store.pendingRec = [] →
      ∃ t, exec .fullRestartEffect s = .next t
        ∧ t.now = s.now ∧ t.powered = true
        ∧ t.seq.sup =
            (if (storedOf s 14).ok = false ∨ (decodeLock (storedOf s 14).content).locked = true then .lock
             else if factoryWhole s = true then .stby else .flck)
        ∧ LoadsCopies s t ∧ StartsBlocks s t
        ∧ (∀ id ∈ [PortId.upstream, PortId.field],
            (port t id).line = .idle ∧ (port t id).trying = none ∧ (port t id).answer = none
              ∧ mayTransmit (port t id) = false
              ∧ ((port s id).line = .stuck ∨ (port s id).gap = .held →
                  (port t id).gap = .held ∧ (port t id).dominant = .running (s.now + 1000))
              ∧ ((port s id).trying = none → canReceive (port s id) = true →
                  (port t id).gap = .running (s.now + 5 + Config.freeTraffic s.freeIndex (id == .field)))
              ∧ (∀ x, (port s id).trying = some x → x.onLine = true → x.frame.needsAck = true → x.hold.isRunning = false →
                  (port s id).line = .transmitting → (port s id).gap = .busy →
                  (port t id).gap = .running (s.now + 5 + Config.freeTraffic s.freeIndex (id == .field)))
              ∧ ((port s id).line = .idle → (port s id).gap = .elapsed → (port s id).trying = none →
                  (port t id).gap = .running (s.now + 5)))
        ∧ t.store.stored = s.store.stored ∧ t.store.factory = s.store.factory ∧ t.link = s.link ∧ t.pending = s.pending)
    ∧ (s.mgmt.restart ≠ .fullArmed ∨ s.store.op ≠ none ∨ s.store.pendingRec ≠ [] →
      exec .fullRestartEffect s = .next s)

/-! ### The lockout -/

/-- LOCAL_RESET_PUSH: in LOCK the record is cleared and LOCK left, the reset list untouched; elsewhere nothing
(R119). With a request present STBY passes on to CHEK (R42). -/
def Obligations.LocalResetPushActsInLockAlone : Prop :=
  ∀ (s : State), s.powered = true →
    (s.seq.sup ≠ .lock → exec .localResetPush s = .next (renewOrder s))
    ∧ (s.seq.sup = .lock → requests s = false → deferredPages s = [] →
        ∃ t, exec .localResetPush s = .next t
          ∧ lockPage t = { lockPage s with locked := false, reason := none, sequence := none }
          ∧ t.seq.failCount = 0 ∧ t.seq.sup = (if s.lock.factoryFault then .flck else .stby)
          ∧ t.seq.lkl = (if s.lock.factoryFault then .flashing else .off)
          ∧ 14 ∈ t.store.pendingRec ∧ t.relay = s.relay ∧ t.mgmt = s.mgmt)
    ∧ (s.seq.sup = .lock → s.lock.factoryFault = false → requests s = true → overheated s = false → chekMet s = false →
        ∃ t, exec .localResetPush s = .next t
          ∧ BeginsAttempt s t ∧ t.seq.failCount = 0 ∧ (lockPage t).locked = false
          ∧ (lockPage t).resets = (lockPage s).resets)

/-- RLCK: refused outside LOCK, refused and latched with three entries in the reset list, else accepted, with
an entry of age 0 appended (R118). CLRH empties the sixteen slots, asks for the writes of pages 15 to 18, and
keeps the mailbox Executing; page 14 is as it was (R123). Where in its ack position the ACK stands is free (log 56),
and its milliseconds are the model's rounding (log 9). -/
def Obligations.LockoutRequestsAreJudged : Prop :=
  ∀ (s : State), TakesRequest s →
    (s.seq.sup ≠ .lock →
      ∃ t, exec .rlck s = .next t ∧ OnlyAnswers s t s.mgmt ∧ Answered t 0x0A .notLocked [])
    ∧ (s.seq.sup = .lock → 3 ≤ (lockPage s).resets.length →
        ∃ t, exec .rlck s = .next t ∧ Answered t 0x0A .resetLimit [] ∧ latched t .resetRefused = true
          ∧ t.seq = s.seq ∧ t.store = s.store)
    ∧ (s.seq.sup = .lock → (lockPage s).resets.length < 3 → requests s = false → deferredPages s = [] →
        ∃ t, exec .rlck s = .next t
          ∧ lockPage t =
              { lockPage s with locked := false, reason := none, sequence := none, resets := (lockPage s).resets ++ [0] }
          ∧ t.seq.failCount = 0 ∧ t.seq.sup = (if s.lock.factoryFault then .flck else .stby)
          ∧ 14 ∈ t.store.pendingRec ∧ t.up.answer = some .ack
          ∧ t.mgmt.mailbox = .executing ∧ t.mgmt.wait = .rlck ∧ t.relay = s.relay)
    ∧ (∃ t, exec .clrh s = .next t
          ∧ occupiedSlots t = [] ∧ (∀ p ∈ [15, 16, 17, 18], p ∈ t.store.pendingRec) ∧ copyOf t 14 = copyOf s 14
          ∧ t.mgmt = { s.mgmt with mailbox := .executing, wait := .clrh [15, 16, 17, 18] }
          ∧ t.relay = s.relay ∧ t.seq = s.seq)

/-- MINUTE_TIMER_EXPIRY: the timer restarts, every age goes up by 1, and an age of 60 is removed; with an
empty list nothing changes and nothing is written (R117). Through every step the list holds at most three
entries, each with an age below 60. -/
def Obligations.MinuteAgesTheResetList : Prop :=
  (∀ (s : State), s.powered = true → s.lock.minute.due s.now = true →
    ∃ t, exec .minuteTimerExpiry s = .next t
      ∧ t.lock.minute = .running (s.now + 60000)
      ∧ lockPage t = { lockPage s with resets := ((lockPage s).resets.map (· + 1)).filter (· < 60) }
      ∧ ((lockPage s).resets = [] → t.store = s.store)
      ∧ ((lockPage s).resets ≠ [] → 14 ∈ t.store.pendingRec)
      ∧ t.seq = s.seq ∧ t.mgmt = s.mgmt ∧ t.relay = s.relay)
  ∧ ∀ (s t : State), ResetListForm s → step s = .next t →
      ResetListForm t ∧ (lockPage t).resets.length ≤ 3 ∧ ∀ age ∈ (lockPage t).resets, age < 60

/-! ### Sample channels -/

/-- The unclamped value (R9). -/
def Obligations.ConversionRoundsHalvesAway : Prop :=
  ∀ (b : Binding) (r : Int), ∃ q : Int, converted b r = q + b.offset
    ∧ 2 * (256 * q - r * b.gain).natAbs ≤ 256
    ∧ (2 * (256 * q - r * b.gain).natAbs = 256 → (r * b.gain).natAbs < (256 * q).natAbs)

/-- Which frames feed a channel (R6): the six-bit source test, the sample set and the length. -/
def Obligations.FrameFeedsTheChannelsItMatches : Prop :=
  ∀ (b : Binding) (src sampleSet : Nat) (payload : List Byte), src < 64 → b.source < 64 → b.mask < 64 →
    (frameMatches b src sampleSet payload = true ↔
      (∀ i, i < 6 → b.mask.testBit i = false → src.testBit i = b.source.testBit i)
        ∧ sampleSet = b.sampleSet ∧ b.offsetByte + (if b.wide then 2 else 1) ≤ payload.length)

/-- SAMPLE_FRAME: every matching channel takes the sample by the five steps, and every other channel is as it
was; from the field segment the field silence timer restarts (R5, R136). A field sample is offered to the queue
upstream with its source and sample set kept (R143): it replaces the queued payload of its source and sample set,
or is appended, where the queue is full after the oldest sample not on the line is removed and Upstream Drop
latched (R151). That a replaced sample keeps its queued header, the destination included, is the model's reading
(log 14). -/
def Obligations.SampleFrameFeedsEachMatchingChannel : Prop :=
  ∀ (s : State) (id : PortId) (dst src sampleSet : Nat) (payload : List Byte),
    s.powered = true → canReceive (port s id) = true → (Instr.sampleFrame id dst src sampleSet payload).wellFormed = true →
    deferredPages s = [] →
    ∃ t, exec (.sampleFrame id dst src sampleSet payload) s = .next t
      ∧ (∀ k : Fin 14, chan t k =
          match bindingOf s k with
          | some b => if frameMatches b src sampleSet payload then (takeSample b s.now payload (chan s k)).chan else chan s k
          | none => chan s k)
      ∧ (port t id).line = .idle ∧ (port t id).answer = none
      ∧ (id = .field → t.cyc.silence = .running (s.now + 5000)) ∧ (id = .upstream → t.cyc = s.cyc)
      ∧ (id = .field → UtqForm s.relay.utq → s.relay.utq.length < 9 →
          ∃ e ∈ t.relay.utq,
            e.frame.kind = .smp ∧ e.frame.src = src ∧ e.frame.sub = sampleSet ∧ e.frame.payload = payload)
      ∧ (id = .field → UtqForm s.relay.utq → fedChannels s src sampleSet payload = [] →
          ∀ new : UtqEntry,
            new = { frame := { dst := dst, src := src, kind := .smp, sub := sampleSet, payload := payload }
                    onLine := false, renewed := false } →
          (∀ pre e post, s.relay.utq = pre ++ e :: post →
            e.frame.kind = .smp → e.frame.src = src → e.frame.sub = sampleSet →
            t.relay.utq =
                pre ++ { e with frame := { e.frame with payload := payload }, renewed := e.renewed || e.onLine } :: post
              ∧ t.mgmt = s.mgmt)
          ∧ ((src, sampleSet) ∉ sampleKeys s.relay.utq →
              (s.relay.utq.length < 10 → t.relay.utq = s.relay.utq ++ [new] ∧ t.mgmt = s.mgmt)
              ∧ (s.relay.utq.length = 10 →
                  latched t .upstreamDrop = true ∧ new ∈ t.relay.utq
                    ∧ (latched s .upstreamDrop = true ∨ s.mgmt.mask.getLsbD Event.upstreamDrop.bit = false →
                        ∃ pre e post, s.relay.utq = pre ++ e :: post ∧ e.frame.kind = .smp ∧ e.onLine = false
                          ∧ (∀ x ∈ pre, x.frame.kind = .smp → x.onLine = true)
                          ∧ t.relay.utq = pre ++ post ++ [new]))))

/-- The verdict on one sample (R8, R10): a marker or a fourth saturated sample in a row faults the channel and
changes nothing else of its measured items; any other sample is accepted. The filter (R11): an accepted sample
seeds it in Awaiting, Stale and Faulted, and moves it by the rounded share of the difference in Fresh and
Limited. -/
def Obligations.SampleVerdictAndFilter : Prop :=
  ∀ (b : Binding) (now : Nat) (payload : List Byte) (c : Channel),
    (rawValue b payload ∈ b.markers →
      (takeSample b now payload c).chan = { c with state := .faulted }
        ∧ (takeSample b now payload c).accepted = none)
    ∧ (rawValue b payload ∉ b.markers → b.low ≤ converted b (rawValue b payload) →
        converted b (rawValue b payload) ≤ b.high →
        (takeSample b now payload c).chan.state = .fresh ∧ (takeSample b now payload c).chan.count = 0
          ∧ (takeSample b now payload c).chan.reading.map (·.v) = some (converted b (rawValue b payload)))
    ∧ (rawValue b payload ∉ b.markers →
        (converted b (rawValue b payload) < b.low ∨ b.high < converted b (rawValue b payload)) →
        (c.count < 3 →
          (takeSample b now payload c).chan.state = .limited ∧ (takeSample b now payload c).chan.count = c.count + 1
            ∧ (takeSample b now payload c).chan.reading.map (·.v) =
                some (if converted b (rawValue b payload) < b.low then b.low else b.high))
        ∧ (3 ≤ c.count →
            (takeSample b now payload c).chan = { c with state := .faulted, count := 4 }
              ∧ (takeSample b now payload c).accepted = none))
    ∧ (takeSample b now payload c).faulted =
        ((takeSample b now payload c).chan.state == .faulted && c.state != .faulted)
    ∧ (∀ r, (takeSample b now payload c).accepted.isSome = true → (takeSample b now payload c).chan.reading = some r →
        (c.state.usable = false → r.acc = 16 * r.v ∧ r.f = r.v ∧ (takeSample b now payload c).accepted = some true)
        ∧ (∀ old, c.reading = some old → c.state.usable = true →
            r.acc = old.acc + roundDiv (16 * r.v - old.acc) (2 ^ b.shift) ∧ r.f = roundDiv r.acc 16
              ∧ (takeSample b now payload c).accepted = some false))

/-- The freshness timer and the time of last accepted sample (R13). -/
def Obligations.AcceptedSampleRestartsFreshness : Prop :=
  ∀ (b : Binding) (now : Nat) (payload : List Byte) (c : Channel),
    ((takeSample b now payload c).accepted.isSome = true →
      (takeSample b now payload c).chan.timer = .running (now + 1000 * b.freshness)
        ∧ (takeSample b now payload c).chan.lastTime = some now)
    ∧ ((takeSample b now payload c).accepted = none →
        (takeSample b now payload c).chan.timer = c.timer ∧ (takeSample b now payload c).chan.lastTime = c.lastTime)

/-- FRESHNESS_EXPIRY: an Awaiting, Fresh or Limited channel enters Stale and Channel Stale is latched; a
Faulted one stays and nothing is latched; the measured items are kept (R14). DEMAND_TIMER_EXPIRY: a Live
record becomes Stale with its level and target, the heat call clears, and Demand Stale is latched (R24). A freshness
or demand timer that has been restarted meanwhile does not expire (R17, R27); that the expiry of any timer that is not
due changes nothing, also of a stopped one, is the model's choice (log 3). -/
def Obligations.TimeLimitsMakeStale : Prop :=
  (∀ (s : State) (k : Fin 14), s.powered = true → deferredPages s = [] →
    ((chan s k).timer.due s.now = true →
      ∃ t, exec (.freshnessExpiry k) s = .next t
        ∧ (∀ j : Fin 14, j ≠ k → chan t j = chan s j)
        ∧ ((chan s k).state = .awaiting ∨ (chan s k).state = .fresh ∨ (chan s k).state = .limited →
            chan t k = { chan s k with state := .stale, timer := .stopped } ∧ latched t .channelStale = true)
        ∧ ((chan s k).state = .faulted →
            chan t k = { chan s k with timer := .stopped } ∧ t.mgmt = s.mgmt ∧ t.relay = s.relay ∧ t.seq = s.seq))
    ∧ (s.demand.timer.due s.now = true → s.demand.state = .live →
      ∃ t, exec .demandTimerExpiry s = .next t
        ∧ t.demand =
            { s.demand with
              state := .stale, timer := .stopped, heatCall := false
              rate := clampNat (schedule s).lowFire (schedule s).highFire (schedule s).lowFire }
        ∧ latched t .demandStale = true ∧ t.frost.boilerCall = s.frost.boilerCall ∧ t.frost.zoneCall = s.frost.zoneCall))
  ∧ ∀ (s : State) (c : Instr), s.powered = true → isExpiry c = true → timely s c = false →
      exec c s = .next (renewOrder s)

/-! ### Heat demand -/

/-- DEMAND_FRAME from the managing station with three bytes: the clamped level and target, the timer, the heat
call by its table and the effective rate (R23, R26, R31). In STBY a first request begins an attempt, where no
condition of CHEK lets it pass on at once (R42, R43); where the call clears as the last request, a level of 0 with
it, an undecided attempt ends as Normal Stop, with nothing else that ends it (R51); in its summary the reason and
absent temperatures are 0, which is the model's (log 38, 54). -/
def Obligations.DemandFrameAccepted : Prop :=
  ∀ (s : State) (src : Nat) (payload : List Byte),
    s.powered = true → canReceive s.up = true → stationOk src = true → src = managingStation s → payload.length = 3 →
    deferredPages s = [] →
    ∃ t, exec (.demandFrame src payload) s = .next t
      ∧ t.demand.state = .live ∧ t.demand.timer = .running (s.now + 6000)
      ∧ t.demand.level = some (if 100 < byteAt payload 0 then 100 else byteAt payload 0)
      ∧ t.demand.target =
          some
            (if s16At payload 1 < (limits s).targetMin then (limits s).targetMin
             else if (limits s).targetMax < s16At payload 1 then (limits s).targetMax else s16At payload 1)
      ∧ t.demand.heatCall =
          (if byteAt payload 0 = 0 then false
           else match usableF s cWater with
            | none => false
            | some f =>
              if t.demand.target.getD 0 ≤ f then false
              else if f ≤ t.demand.target.getD 0 - (limits s).differential then true
              else s.demand.heatCall)
      ∧ t.demand.rate =
          clampNat (schedule s).lowFire (schedule s).highFire
            (if t.demand.heatCall then t.demand.level.getD 0 else (schedule s).lowFire)
      ∧ t.up.answer =
          some
            (if byteAt payload 0 ≤ 100 ∧ (limits s).targetMin ≤ s16At payload 1 ∧ s16At payload 1 ≤ (limits s).targetMax
             then .ack else .ackA)
      ∧ (s.seq.sup = .stby → requests s = false → t.demand.heatCall = true → overheated s = false → chekMet s = false →
          BeginsAttempt s t)
      ∧ (s.demand.heatCall = true → s.frost.boilerCall = false → s.frost.zoneCall = false → t.demand.heatCall = false →
          overheated s = false → isUsable s cWater = true → Undisturbed s → 0 < (schedule s).postMin →
          ∀ a, s.seq.attempt = some a → a.outcome = none → s.seq.sup.undecided = true →
            Decided s a .normalStop t ∧ (s.seq.sup = .chek ∨ s.seq.sup = .cond → t.seq.attempt = none))

/-- Frames the part does not take. A demand or request from a station that is not the managing one is answered
NAK-R with the Last Refusal record replaced, a DMD of another length NAK-M, a CMD to the own station NAK-M (R22,
R23, R142, R143); the idle gap follows the part's own answer. A valid field frame restarts the field silence timer
(R136). Any other frame leaves the port Idle, or Receiving through an ack position of other stations (R125).
Nothing else changes. The last clause says which command a valid frame is, by its kind and its destination's map
entry (R142, R143). A port that answers is in Receiving until its ack byte's stop bit (R129, O2); where in the ack
position the byte stands is free (log 56). The milliseconds of the byte and of the idle gap are the model's rounding
(log 9); how long another station's ack position lasts is free (log 40). -/
def Obligations.FramesTurnedAway : Prop :=
  ∀ (s : State) (src : Nat) (payload : List Byte), s.powered = true → stationOk src = true → payloadOk payload = true →
    (canReceive s.up = true → src ≠ managingStation s →
      ∀ c ∈ [Instr.demandFrame src payload, Instr.mrqNotManaging src], ∃ t, exec c s = .next t
        ∧ SendsAck s t .upstream .nakR
        ∧ t.relay =
            { s.relay with
              lastRefusal := some { origin := src, dst := ownStation s, code := none, reason := .notManaging } }
        ∧ t = { s with up := t.up, relay := t.relay, order := t.order, freeIndex := t.freeIndex })
    ∧ (canReceive s.field = true →
        ∃ t, exec (.fieldManagementFrame src) s = .next t
          ∧ SendsAck s t .field .nakR
          ∧ t.relay =
              { s.relay with
                lastRefusal := some { origin := src, dst := ownStation s, code := none, reason := .notManaging } }
          ∧ t.cyc = { s.cyc with silence := .running (s.now + 5000) }
          ∧ t = { s with field := t.field, relay := t.relay, cyc := t.cyc, order := t.order, freeIndex := t.freeIndex })
    ∧ (canReceive s.up = true → src = managingStation s → payload.length ≠ 3 →
        ∃ t, exec (.demandFrame src payload) s = .next t
          ∧ SendsAck s t .upstream .nakM
          ∧ t = { s with up := t.up, order := t.order, freeIndex := t.freeIndex })
    ∧ (canReceive s.up = true →
        ∃ t, exec (.ownCommandFrame .upstream) s = .next t
          ∧ SendsAck s t .upstream .nakM
          ∧ t = { s with up := t.up, order := t.order, freeIndex := t.freeIndex })
    ∧ (canReceive s.field = true →
        ∃ t, exec (.ownCommandFrame .field) s = .next t
          ∧ SendsAck s t .field .nakM
          ∧ t.cyc = { s.cyc with silence := .running (s.now + 5000) }
          ∧ t = { s with field := t.field, cyc := t.cyc, order := t.order, freeIndex := t.freeIndex })
    ∧ (canReceive s.field = true →
        ∃ t, exec .fieldFrameOther s = .next t
          ∧ (t.field = { s.field with line := .idle, gap := .running (s.now + 5), dominant := .stopped, answer := none }
            ∨ t.field =
                { s.field with
                  line := .receiving, gap := .running (s.now + 5 + Config.freeTraffic s.freeIndex true)
                  dominant := .stopped, answer := none })
          ∧ t.cyc = { s.cyc with silence := .running (s.now + 5000) }
          ∧ t = { s with field := t.field, cyc := t.cyc, order := t.order, freeIndex := t.freeIndex })
    ∧ (canReceive s.up = true →
        ∃ t, exec .upstreamFrameNoEffect s = .next t
          ∧ (t.up = { s.up with line := .idle, gap := .running (s.now + 5), dominant := .stopped, answer := none }
            ∨ t.up =
                { s.up with
                  line := .receiving, gap := .running (s.now + 5 + Config.freeTraffic s.freeIndex false)
                  dominant := .stopped, answer := none })
          ∧ t = { s with up := t.up, order := t.order, freeIndex := t.freeIndex })
    ∧ ∀ f : Frame,
        (f.kind = .smp →
          upstreamRow s f = .sampleFrame .upstream f.dst f.src f.sub f.payload
            ∧ fieldRow s f = .sampleFrame .field f.dst f.src f.sub f.payload)
        ∧ (f.kind = .cmd →
            (segment s f.dst = .field → upstreamRow s f = .upstreamCommand f.dst f.src f.payload)
            ∧ (segment s f.dst = .own → upstreamRow s f = .ownCommandFrame .upstream ∧ fieldRow s f = .ownCommandFrame .field)
            ∧ (f.dst = 0 → upstreamRow s f = .broadcastCommand f.src f.payload ∧ fieldRow s f = .fieldFrameOther)
            ∧ (f.dst ≠ 0 → segment s f.dst = .upstream ∨ segment s f.dst = .absent → upstreamRow s f = .upstreamFrameNoEffect)
            ∧ (segment s f.dst ≠ .own → fieldRow s f = .fieldFrameOther))
        ∧ (segment s f.dst = .own →
            (f.kind = .dmd → upstreamRow s f = .demandFrame f.src f.payload ∧ fieldRow s f = .fieldManagementFrame f.src)
            ∧ (f.kind = .mrq →
                upstreamRow s f = (if f.src = managingStation s then requestOf f.payload else .mrqNotManaging f.src)
                  ∧ fieldRow s f = .fieldManagementFrame f.src))
        ∧ (segment s f.dst ≠ .own → f.kind = .dmd ∨ f.kind = .mrq →
            upstreamRow s f = .upstreamFrameNoEffect ∧ fieldRow s f = .fieldFrameOther)
        ∧ (f.kind = .mrk ∨ f.kind = .mrs ∨ f.kind = .alr ∨ f.kind = .rep →
            upstreamRow s f = .upstreamFrameNoEffect ∧ fieldRow s f = .fieldFrameOther)

/-! ### The firing sequence -/

/-- The events that end an attempt, each with the outcome its rule gives, with requests present and a POST minimum
above 0. The six expiries (R44, R45, R47, R48, R49, R87). A sample that feeds one channel: false flame (R46), flame
lost (R49, R50), Flue High (R90), spillage (R92), water overheat (R53). The freshness of the flue channel in FIRE
and of the water channel, by which the heat call can clear first (R52, R63). The demand timer as the last request
clears (R51). That absent temperatures and the reason of a Normal Stop are 0 in the summary is the model's (log 38,
54). -/
def Obligations.ExpiryDecidesTheOutcome : Prop :=
  ∀ (s : State) (a : Attempt),
    s.powered = true → requests s = true → 0 < (schedule s).postMin → s.seq.attempt = some a → a.outcome = none →
    (s.seq.sup = .chek → s.seq.timers.chekMax.due s.now = true →
      ∃ t, exec .chekMaximumExpiry s = .next t ∧ Decided s a
        (if s.seq.flameClear = false ∧ holdsF s cFlame (fun f => (limits s).flameOff ≤ f) = true then .lockout .falseFlame
         else if (isUsable s cFlame && isUsable s cWater && isUsable s cFlue && isUsable s cDraught) = false then
           .notCounted .sensorNotReady
         else if holdsF s cDraught (fun f => (limits s).reverseLimit < f) = true then .notCounted .downdraught
         else .notCounted .checkNotMet) t)
    ∧ (s.seq.sup = .cond → s.seq.timers.condMax.due s.now = true →
      ∃ t, exec .condMaximumExpiry s = .next t ∧ Decided s a
        (if (chan s cOil).state = .unbound ∨ holdsF s cOil (fun f => (limits s).oilMinimum ≤ f) = true
         then .failed .preheatFailed else .notCounted .coldOil) t)
    ∧ (s.seq.sup = .purg → s.seq.timers.purgMax.due s.now = true →
      ∃ t, exec .purgMaximumExpiry s = .next t ∧ Decided s a (.failed .draughtFailed) t)
    ∧ (s.seq.sup = .ignt → s.seq.timers.safety.due s.now = true →
      ∃ t, exec .safetyTimeExpiry s = .next t ∧ Decided s a (.failed .ignitionFailed) t)
    ∧ (s.seq.sup = .warm → s.seq.timers.warmMax.due s.now = true →
      ∃ t, exec .warmMaximumExpiry s = .next t ∧ Decided s a (.failed .flueNotRising) t)
    ∧ (s.seq.sup = .warm ∨ s.seq.sup = .fire → s.flue.loss.due s.now = true →
      ∃ t, exec .lossTimerExpiry s = .next t ∧ Decided s a (.failed .draughtLost) t)
    ∧ (∀ (id : PortId) (dst src sampleSet : Nat) (payload : List Byte) (k : Fin 14) (u : State),
        FeedsAlone s id dst src sampleSet payload k → u = sampled s k payload →
        (k = cFlame → s.seq.sup = .cond ∨ s.seq.sup = .purg → overheated s = false → isUsable s cWater = true →
            (s.seq.sup = .cond → condMet s = false) → (s.seq.sup = .purg → purgMet s = false) →
            holdsF u cFlame (fun f => (limits s).flameOn ≤ f) = true →
          ∃ t, exec (.sampleFrame id dst src sampleSet payload) s = .next t ∧ Decided s a (.lockout .falseFlame) t)
        ∧ (s.seq.sup = .warm ∨ s.seq.sup = .fire → overheated u = false → isUsable u cWater = true → spills u = false →
            (s.seq.sup = .fire → isUsable u cFlue = true) →
            (k = cFlame → flueIsHigh u = false → holdsF u cFlame (fun f => (limits s).flameOff ≤ f) = false →
              ∃ t, exec (.sampleFrame id dst src sampleSet payload) s = .next t ∧ Decided s a (.failed .flameLost) t)
            ∧ (k = cFlue → flameLost u = false → holdsF u cFlue (fun f => (limits s).flueHigh ≤ f) = true →
              ∃ t, exec (.sampleFrame id dst src sampleSet payload) s = .next t ∧ Decided s a (.failed .flueHigh) t))
        ∧ (k = cDiverter → Undisturbed s → s.seq.sup = .ignt ∨ s.seq.sup = .warm ∨ s.seq.sup = .fire →
            overheated s = false → isUsable s cWater = true → s.flue.watch = .armed →
            ∀ base, a.diverterBase = some base → holdsF u cDiverter (fun f => (limits s).spillageRise ≤ f - base) = true →
          ∃ t, exec (.sampleFrame id dst src sampleSet payload) s = .next t ∧ Decided s a (.lockout .spillage) t
            ∧ latched t .spillage = true ∧ t.flue.watch = .ended)
        ∧ (k = cWater → Undisturbed u → s.seq.sup.undecided = true → s.demand.heatCall = true → heatNext u = true →
            holdsF u cWater (fun f => (limits s).waterHigh ≤ f) = true →
          ∃ t, exec (.sampleFrame id dst src sampleSet payload) s = .next t ∧ Decided s a (.lockout .waterOverheat) t))
    ∧ (deferredPages s = [] → overheated s = false → isUsable s cWater = true → Undisturbed s →
        ((chan s cFlue).timer.due s.now = true → s.seq.sup = .fire →
          ∃ t, exec (.freshnessExpiry cFlue) s = .next t ∧ Decided s a (.notCounted .sensorLost) t)
        ∧ ((chan s cWater).timer.due s.now = true →
            s.seq.sup = .purg ∨ s.seq.sup = .ignt ∨ s.seq.sup = .warm ∨ s.seq.sup = .fire →
          ∃ t, exec (.freshnessExpiry cWater) s = .next t
            ∧ (Decided s a .normalStop t ∨ Decided s a (.notCounted .sensorLost) t))
        ∧ (s.demand.timer.due s.now = true → s.demand.state = .live → s.seq.sup.undecided = true →
            s.frost.boilerCall = false → s.frost.zoneCall = false →
          ∃ t, exec .demandTimerExpiry s = .next t ∧ Decided s a .normalStop t))

/-- The events that open a passage or move a watch, with nothing that ends the attempt. The expiries: COND to PURG
at the preheat time, PURG to IGNT at the later of the pre-purge time and the draught proof (R45, R47, R69, R75,
R85). A sample that feeds one channel: CHEK to COND with the line heater taken afresh (R43, R68, R71), flame proof
with the flue baseline and the loss test (R48, R86, R88), the rise proven (R89), the proof timer and the loss timer
(R84, R86), the line heater with its hysteresis (R71, R73). -/
def Obligations.ExpiryOpensThePassage : Prop :=
  (∀ (s : State) (a : Attempt),
    s.powered = true → requests s = true → overheated s = false → isUsable s cWater = true → flamePresent s = false →
    spills s = false → s.seq.frc = s.seq.sup.fuel → s.seq.attempt = some a →
    (s.seq.sup = .cond → s.seq.timers.preheat.due s.now = true →
      ∃ t, exec .preheatTimerExpiry s = .next t
        ∧ t.seq.sup = (if nozzleReady s = true ∧ oilReady s = true then .purg else .cond) ∧ t.seq.frc = s.seq.sup.fuel
        ∧ (t.seq.sup = .cond → t.seq.timers = { s.seq.timers with preheat := .expired })
        ∧ (t.seq.sup = .purg →
            t.seq.timers.prePurge = .running (s.now + 1000 * (schedule s).prePurge)
              ∧ t.seq.timers.purgMax = .running (s.now + 1000 * (schedule s).purgMax)
              ∧ t.seq.current.fan = (schedule s).purgeFan
              ∧ ∃ b, t.seq.attempt = some b ∧ b.suction = some (requiredSuction s) ∧ b.diverterBase = usableF s cDiverter))
    ∧ (s.seq.sup = .purg → s.seq.timers.prePurge.due s.now = true →
      ∃ t, exec .prePurgeExpiry s = .next t
        ∧ t.seq.sup = (if a.proof then .ignt else .purg) ∧ t.seq.frc = a.proof
        ∧ (a.proof = true →
            t.seq.timers.safety = .running (s.now + 1000 * (schedule s).safetyTime)
              ∧ t.seq.current.valve = true ∧ t.seq.current.ignition = true ∧ t.seq.current.rate = (schedule s).lowFire))
    ∧ (s.seq.sup = .purg → s.flue.proof.due s.now = true →
      ∃ t, exec .proofTimerExpiry s = .next t
        ∧ t.seq.sup = (if s.seq.timers.prePurge = .expired then .ignt else .purg)
        ∧ t.flue.proof = .stopped ∧ t.seq.attempt.map (·.proof) = some true))
  ∧ ∀ (s u : State) (a : Attempt) (id : PortId) (dst src sampleSet : Nat) (payload : List Byte) (k : Fin 14),
    requests s = true → s.seq.attempt = some a → FeedsAlone s id dst src sampleSet payload k → u = sampled s k payload →
    ∃ t, exec (.sampleFrame id dst src sampleSet payload) s = .next t
      ∧ (k = cDraught → s.seq.sup = .chek → chekMet u = true → flamePresent s = false → overheated s = false →
          0 < preheatTime s →
          t.seq.sup = .cond ∧ t.seq.frc = false
            ∧ t.seq.heater =
                (if (chan s cOil).state = .unbound then false
                 else match usableF s cOil with
                  | none => true
                  | some f => f < (limits s).oilMinimum)
            ∧ t.seq.timers.preheat = .running (s.now + 1000 * preheatTime s)
            ∧ t.seq.timers.condMax = .running (s.now + 1000 * (schedule s).condMax)
            ∧ t.seq.attempt.bind (·.preheat) = some (preheatTime s))
      ∧ (overheated s = false → isUsable s cWater = true →
        (k = cFlame → s.seq.sup = .ignt → holdsF u cFlame (fun f => (limits s).flameOn ≤ f) = true → flameLost u = false →
            spills s = false → flueIsHigh s = false → s.flue.loss = .stopped →
          t.seq.sup = .warm ∧ t.seq.frc = true
            ∧ t.seq.timers.warmMax = .running (s.now + 1000 * (schedule s).warmMax)
            ∧ t.seq.attempt.bind (·.flueBase) = usableF s cFlue
            ∧ t.seq.current.valve = true ∧ t.seq.current.ignition = false ∧ t.seq.current.rate = (schedule s).lowFire
            ∧ t.flue.loss =
                (if holdsF s cDraught (fun f => f ≤ -(roundDiv (a.suction.getD 0) 2)) then .stopped
                 else .running (s.now + 1000 * (s.flue.lossTime.getD 0))))
        ∧ (Undisturbed u →
          (k = cFlue → s.seq.sup = .warm →
              (∃ base, a.flueBase = some base ∧ holdsF u cFlue (fun f => (schedule s).requiredRise ≤ f - base) = true) →
            t.seq.sup = .fire ∧ t.seq.frc = true ∧ t.seq.timers.stable = .running (s.now + 120000)
              ∧ t.seq.current.valve = true ∧ t.seq.current.rate = t.demand.rate)
          ∧ (k = cDraught → s.seq.sup = .purg → a.proof = false →
            t.seq = s.seq
              ∧ t.flue =
                  { s.flue with
                    proof :=
                      if holdsF u cDraught (fun f => f ≤ -(a.suction.getD 0)) then
                        (if s.flue.proof.isRunning then s.flue.proof else .running (s.now + 1000 * (s.flue.proofTime.getD 0)))
                      else .stopped })
          ∧ (k = cDraught → s.seq.sup = .warm ∨ s.seq.sup = .fire →
            t.seq = s.seq
              ∧ t.flue =
                  { s.flue with
                    loss :=
                      if holdsF u cDraught (fun f => f ≤ -(roundDiv (a.suction.getD 0) 2)) then .stopped
                      else if s.flue.loss.isRunning then s.flue.loss
                      else .running (s.now + 1000 * (s.flue.lossTime.getD 0)) })
          ∧ (k = cOil → s.seq.sup = .cond ∨ s.seq.sup = .purg ∨ s.seq.sup = .ignt ∨ s.seq.sup = .warm →
            t.seq.sup = s.seq.sup ∧ t.seq.current.lineHeater = t.seq.heater
              ∧ t.seq.heater =
                  (if (chan u cOil).state = .unbound then false
                   else match usableF u cOil with
                    | none => true
                    | some f =>
                      if f < (limits s).oilMinimum then true
                      else if (limits s).oilMinimum + 10 ≤ f then false
                      else s.seq.heater))))

/-- The failure count. It never passes the recycle limit by a failure: one past it is a lockout with the same
reason, the count left as it is (R60). STABLE_FIRING_EXPIRY sets it to 0 and changes nothing else (R50). Through
every step it stays at most the recycle limit, also when a replaced Schedule lowers that (R60, R61). -/
def Obligations.FailureCountFollowsItsLimit : Prop :=
  (∀ (s : State) (r : Reason),
    (s.seq.failCount ≤ (schedule s).recycleLimit →
        countAfter s (promoted s (.failed r)) ≤ (schedule s).recycleLimit
        ∧ (s.seq.failCount = (schedule s).recycleLimit →
            promoted s (.failed r) = .lockout r ∧ countAfter s (promoted s (.failed r)) = s.seq.failCount)
        ∧ (s.seq.failCount < (schedule s).recycleLimit →
            promoted s (.failed r) = .failed r ∧ countAfter s (promoted s (.failed r)) = s.seq.failCount + 1))
    ∧ (s.powered = true → s.seq.sup = .fire → s.seq.timers.stable.due s.now = true →
        exec .stableFiringExpiry s =
          .next
            (renewOrder
              { s with seq := { s.seq with failCount := 0, timers := { s.seq.timers with stable := .stopped } } })))
  ∧ ∀ (s t : State), s.seq.failCount ≤ (schedule s).recycleLimit → step s = .next t →
      t.seq.failCount ≤ (schedule t).recycleLimit

/-- POST ends at its maximum, or at its minimum with a cool flue, by the outcome; its minimum without a cool
flue leaves it to go on (R56). RECYCLE_WAIT_EXPIRY and COLD_HOLD_EXPIRY begin a new attempt with requests
present, and lead to STBY without (R57, R58). -/
def Obligations.PostAndWaitsEnd : Prop :=
  ∀ (s : State) (a : Attempt) (o : AttemptEnd), s.powered = true →
    (s.seq.sup = .post → s.seq.attempt = some a → a.outcome = some o → deferredPages s = [] →
        ∀ c ∈ [Instr.postMaximumExpiry, Instr.postMinimumExpiry],
          (if c = .postMaximumExpiry then s.seq.timers.postMax.due s.now = true
           else s.seq.timers.postMin.due s.now = true ∧ holdsF s cFlue (fun f => f < (limits s).flueCool) = true) →
          (o = .normalStop →
            (requests s = true → overheated s = false → chekMet s = false → ∃ t, exec c s = .next t ∧ BeginsAttempt s t)
            ∧ (requests s = false →
                ∃ t, exec c s = .next t ∧ t.seq.sup = .stby ∧ t.seq.attempt = none ∧ t.seq.current = OutputSet.standby))
          ∧ (∀ r, o = .failed r ∨ o = .notCounted r →
              ∃ t, exec c s = .next t ∧ t.seq.sup = (if requests s then .rcyw else .stby) ∧ t.seq.attempt = none)
          ∧ (∀ r, o = .lockout r → ∃ t, exec c s = .next t ∧ t.seq.sup = .lock ∧ t.seq.lkl = .steady ∧ t.seq.attempt = none))
    ∧ (s.seq.sup = .post → s.seq.timers.postMin.due s.now = true →
        holdsF s cFlue (fun f => f < (limits s).flueCool) = false →
        exec .postMinimumExpiry s =
          .next (renewOrder { s with seq := { s.seq with timers := { s.seq.timers with postMin := .expired } } }))
    ∧ (∀ x ∈ [(Instr.recycleWaitExpiry, SupState.rcyw, s.seq.timers.recycle), (Instr.coldHoldExpiry, SupState.cold, s.seq.timers.coldHold)],
          s.seq.sup = x.2.1 → x.2.2.due s.now = true →
          (requests s = true → overheated s = false → chekMet s = false → ∃ t, exec x.1 s = .next t ∧ BeginsAttempt s t)
          ∧ (requests s = false → deferredPages s = [] →
              ∃ t, exec x.1 s = .next t ∧ t.seq.sup = .stby ∧ t.seq.current = OutputSet.standby))

/-- RE_PLACE_TIMER_EXPIRY: the current set is placed again as the pending frame, to the Burner entry (R37).
CYCLE_TIMER_EXPIRY: the due mark takes the Mark slot's place with the present index, and the index advances by
1 with 7 followed by 0 (R135). FIELD_SILENCE_EXPIRY: the timer stops and Field Silent is latched (R136). -/
def Obligations.FieldTimersAct : Prop :=
  ∀ (s : State), s.powered = true →
    (s.seq.rePlace.due s.now = true →
        exec .rePlaceTimerExpiry s =
          .next
            (renewOrder
              { s with
                seq := { s.seq with rePlace := .stopped }
                arb := { s.arb with pending := some { dst := burnerStation s, set := s.seq.current } } }))
    ∧ (s.cyc.timer.due s.now = true →
        exec .cycleTimerExpiry s =
          .next
            (renewOrder
              { s with
                cyc := { s.cyc with timer := .running (s.now + 250), index := if s.cyc.index % 8 = 7 then 0 else s.cyc.index % 8 + 1 }
                arb := { s.arb with markWaiting := some s.cyc.index } }))
    ∧ (s.cyc.silence.due s.now = true →
        ∃ t, exec .fieldSilenceExpiry s = .next t
          ∧ t.cyc = { s.cyc with silence := .stopped } ∧ latched t .fieldSilent = true
          ∧ t.seq = s.seq ∧ t.store = s.store ∧ t.arb = s.arb)

/-! ### Curves -/

/-- A curve of strictly rising x is held flat outside its points, passes through every point, stays between the
least and the greatest value of its points (R67), and between two neighbours adds to the first one's value the
quotient of the exact product by the span, rounded to the nearest integer, halves away from zero (R66). -/
def Obligations.CurveHeldFlatAndBetweenItsPoints : Prop :=
  ∀ (first : Int × Int) (rest : List (Int × Int)), (first :: rest).Pairwise (fun p q => p.1 < q.1) →
    (∀ x, x ≤ first.1 → evalCurve (first :: rest) x = first.2)
    ∧ (∀ x, ((first :: rest).getLast (List.cons_ne_nil _ _)).1 ≤ x →
        evalCurve (first :: rest) x = ((first :: rest).getLast (List.cons_ne_nil _ _)).2)
    ∧ (∀ p ∈ first :: rest, evalCurve (first :: rest) p.1 = p.2)
    ∧ (∀ x lo hi, (∀ p ∈ first :: rest, lo ≤ p.2 ∧ p.2 ≤ hi) →
        lo ≤ evalCurve (first :: rest) x ∧ evalCurve (first :: rest) x ≤ hi)
    ∧ (∀ pre p q post x, first :: rest = pre ++ p :: q :: post → p.1 ≤ x → x < q.1 →
        ∃ d : Int, evalCurve (first :: rest) x = p.2 + d
          ∧ 2 * (d * (q.1 - p.1) - (x - p.1) * (q.2 - p.2)).natAbs ≤ (q.1 - p.1).natAbs
          ∧ (2 * (d * (q.1 - p.1) - (x - p.1) * (q.2 - p.2)).natAbs = (q.1 - p.1).natAbs →
              ((x - p.1) * (q.2 - p.2)).natAbs < (d * (q.1 - p.1)).natAbs))

/-! ### Frost watch -/

/-- The frost debt at a sample of a zone that watches its sensor (R98, R99): the exact sum clamped to twice the
trigger, with at most 60 s counted, and the zone's state from it; a Protecting zone is released by R100. A sample
frame that feeds the zone's channel alone gives the zone this accrual, and its stations are held or released with
the state (R104). A sample of the water channel decides both frost calls (R108, R109). Through every step each debt
is at most twice its trigger (R99). That the refresh timer of a zone that stops holding is stopped also where a release
is owed, for which R107 would have it run on, is the model's choice (log 48). -/
def Obligations.FrostDebtAccrues : Prop :=
  (∀ (s : State) (z : Fin 6) (f : Int) (last : Nat),
    (zone s z).state.sensed = true → (zone s z).lastAccrual = some last →
    ((zone (zoneSample z false f s) z).debt : Int) =
        clampInt 0 (2 * (zoneRec s z).trigger : Nat)
          ((zone s z).debt + ((zoneRec s z).threshold - f) * (if 600 < (s.now - last) / 100 then 600 else (s.now - last) / 100 : Nat))
    ∧ (zone (zoneSample z false f s) z).debt ≤ 2 * (zoneRec s z).trigger
    ∧ (zone (zoneSample z false f s) z).lastAccrual = some s.now
    ∧ ((zone s z).state ≠ .protecting →
        (zone (zoneSample z false f s) z).state =
            (if (zoneRec s z).trigger ≤ (zone (zoneSample z false f s) z).debt then .protecting
             else if (zone (zoneSample z false f s) z).debt = 0 then .quiet else .accruing)
        ∧ ((zone (zoneSample z false f s) z).state = .protecting →
            latched (zoneSample z false f s) .frostProtectionStarted = true))
    ∧ ((zone s z).state = .protecting →
        (zone (zoneSample z false f s) z).state =
            (if (zoneRec s z).release ≤ f ∧ 2 * (zone (zoneSample z false f s) z).debt ≤ (zoneRec s z).trigger then
               (if (zone (zoneSample z false f s) z).debt = 0 then .quiet else .accruing)
             else .protecting))
    ∧ (zone (zoneSample z true f s) z).debt = (zone s z).debt)
  ∧ (∀ (s u : State) (id : PortId) (dst src sampleSet : Nat) (payload : List Byte) (k : Fin 14),
      FeedsAlone s id dst src sampleSet payload k → u = sampled s k payload →
      ∃ t, exec (.sampleFrame id dst src sampleSet payload) s = .next t
        ∧ (∀ (z : Fin 6) (b : Binding) (seeding : Bool) (f : Int),
            k = cZone z → bindingOf s k = some b → (takeSample b s.now payload (chan s k)).accepted = some seeding →
            usableF u k = some f → (zone s z).state.sensed = true →
            zone t z = zone (zoneSample z seeding f s) z
              ∧ ((zone s z).state.holds = false → (zone t z).state.holds = true →
                  (zone t z).refresh = .running (s.now + 60000) ∧ HoldsQueued s t z)
              ∧ ((zone s z).state.holds = true → (zone t z).state.holds = false →
                  (zone t z).refresh = .stopped ∧ ReleasesQueued s t z))
        ∧ (k = cWater →
            t.frost.boilerCall =
                (match usableF u cWater with
                 | none => false
                 | some f =>
                   if f ≤ (limits s).frostStart then true
                   else if (limits s).frostStop ≤ f then false else s.frost.boilerCall)
              ∧ t.frost.zoneCall =
                (match usableF u cWater with
                 | none => false
                 | some f =>
                   if (List.finRange 6).all (fun z => !(zone s z).state.holds) then false
                   else if f ≤ (limits s).frostWaterMin - 50 then true
                   else if (limits s).frostWaterMin ≤ f then false else s.frost.zoneCall)
              ∧ t.frost.zones = s.frost.zones))
  ∧ ∀ (s t : State), DebtsBounded s → step s = .next t → DebtsBounded t

/-- PERIOD_TIMER_EXPIRY: a new period begins, and where it is cold outdoors the phase goes on, the on timer
starts and the zone's stations are held. ON_TIMER_EXPIRY: the phase goes off and the zone's stations are
released, but for a station another zone holds; the zone frost call clears with the last circulating zone (R103,
R104, R109). FRESHNESS_EXPIRY of the zone's channel: the zone enters Sensorless, Held from Protecting and Duty from
Quiet or Accruing (R101). The first accepted sample of a Sensorless zone takes its state from the kept debt (R102).
MANAGEMENT_WRITE_COMPLETE of a zone page: each zone whose record differs is rewritten and the others are as they
were (R111). That the refresh timer of a zone that stops holding (at its on timer's expiry, at its first accepted
sample) is stopped also where a release is owed, for which R107 would have it run on, is the model's choice
(log 48). -/
def Obligations.DutyFollowsItsTimers : Prop :=
  (∀ (s : State) (z : Fin 6) (on : Bool), s.powered = true → (zone s z).state = .sensorlessDuty on → deferredPages s = [] →
    ((zone s z).period.due s.now = true →
        ∃ t, exec (.periodTimerExpiry z) s = .next t
          ∧ (zone t z).period = .running (s.now + 1000 * (frostSettings s).period)
          ∧ (zone t z).state =
              .sensorlessDuty (on || (match usableF s cOutdoor with | none => true | some f => f < (frostSettings s).outdoorLimit))
          ∧ (outdoorCold s = true → (zone t z).on = .running (s.now + 1000 * (frostSettings s).onTime))
          ∧ (outdoorCold s = false → (zone t z).on = (zone s z).on)
          ∧ (outdoorCold s = true → on = false →
              (zone t z).refresh = .running (s.now + 60000) ∧ (zone t z).pumpOwed = none ∧ (zone t z).valveOwed = none
                ∧ HoldsQueued s t z)
          ∧ (∀ y : Fin 6, y ≠ z → zone t y = zone s y))
    ∧ ((zone s z).on.due s.now = true →
        ∃ t, exec (.onTimerExpiry z) s = .next t
          ∧ (zone t z).state = .sensorlessDuty false ∧ (zone t z).on = .stopped ∧ (zone t z).debt = (zone s z).debt
          ∧ (on = true → (zone t z).refresh = .stopped ∧ ReleasesQueued s t z)
          ∧ (on = true → (∀ y : Fin 6, y ≠ z → (zone s y).state.holds = false) → t.frost.zoneCall = false)
          ∧ (∀ y : Fin 6, y ≠ z → zone t y = zone s y)))
  ∧ (∀ (s : State) (z : Fin 6), s.powered = true → deferredPages s = [] → isUsable s (cZone z) = true →
      (chan s (cZone z)).timer.due s.now = true →
      ∃ t, exec (.freshnessExpiry (cZone z)) s = .next t
        ∧ ((zone s z).state = .protecting →
            zone t z = { zone s z with state := .sensorlessHeld, lastAccrual := none })
        ∧ ((zone s z).state = .quiet ∨ (zone s z).state = .accruing →
            zone t z =
              { zone s z with
                state := .sensorlessDuty false, lastAccrual := none
                period := .running (s.now + 1000 * (frostSettings s).period) })
        ∧ t.arb = s.arb ∧ t.seq = s.seq ∧ (∀ y : Fin 6, y ≠ z → zone t y = zone s y))
  ∧ (∀ (s : State) (z : Fin 6) (id : PortId) (dst src sampleSet : Nat) (payload : List Byte) (b : Binding),
      FeedsAlone s id dst src sampleSet payload (cZone z) → bindingOf s (cZone z) = some b →
      (takeSample b s.now payload (chan s (cZone z))).accepted.isSome = true → (zone s z).state.sensorless = true →
      ∃ t, exec (.sampleFrame id dst src sampleSet payload) s = .next t
        ∧ (zone t z).state =
            (if (zoneRec s z).trigger ≤ (zone s z).debt then .protecting
             else if (zone s z).debt = 0 then .quiet else .accruing)
        ∧ (zone t z).debt = (zone s z).debt ∧ (zone t z).lastAccrual = some s.now
        ∧ (zone t z).period = .stopped ∧ (zone t z).on = .stopped
        ∧ ((zone t z).state = .protecting → latched t .frostProtectionStarted = true)
        ∧ ((zone s z).state.holds = (zone t z).state.holds → (zone t z).refresh = (zone s z).refresh)
        ∧ ((zone s z).state.holds = false → (zone t z).state.holds = true →
            (zone t z).refresh = .running (s.now + 60000) ∧ HoldsQueued s t z)
        ∧ ((zone s z).state.holds = true → (zone t z).state.holds = false →
            (zone t z).refresh = .stopped ∧ ReleasesQueued s t z))
  ∧ ∀ (s : State) (p : Nat) (content : Content),
      s.powered = true → p = 11 ∨ p = 12 → UtqForm s.relay.utq → deferredPages s = [] →
      s.store.op = some (.write p content .single) → s.store.portTimer.due s.now = true →
      ∃ t, exec .managementWriteComplete s = .next t ∧ pageOf t p = content
        ∧ ∀ z : Fin 6,
            (zonePage z.val = p → zoneBytes content z.val ≠ zoneBytes (pageOf s p) z.val →
              zone t z =
                  (if (zoneRec t z).enabled then
                     (if isUsable s (cZone z) then { Zone.idle with state := .quiet }
                      else
                        { Zone.idle with
                          state := .sensorlessDuty false, period := .running (s.now + 1000 * (frostSettings s).period) })
                   else Zone.idle)
                ∧ ((zone s z).state.holds = true → ReleasesQueued s t z))
            ∧ (zonePage z.val ≠ p ∨ zoneBytes content z.val = zoneBytes (pageOf s p) z.val → zone t z = zone s z)

/-- REFRESH_TIMER_EXPIRY (R107): a zone that holds queues its hold codes again; an owed release is dropped where
another zone holds its station, and else stays owed and is queued again where no zone holds its station; the timer
restarts while the zone holds or owes, and stops otherwise. An owed release keeps the station and the code of the
frame that was not delivered (log 25). -/
def Obligations.RefreshRepeatsTheHold : Prop :=
  ∀ (s : State) (z : Fin 6), s.powered = true → (zone s z).refresh.due s.now = true →
    ∃ t, exec (.refreshTimerExpiry z) s = .next t
      ∧ (zone t z).state = (zone s z).state ∧ (zone t z).debt = (zone s z).debt
      ∧ (zone t z).refresh =
          (if (zone s z).state.holds || (zone t z).pumpOwed.isSome || (zone t z).valveOwed.isSome then
             .running (s.now + 60000)
           else .stopped)
      ∧ ((zone s z).state.holds = true → HoldsQueued s t z)
      ∧ (∀ x, (zone s z).valveOwed = some x →
          (heldByOther s z x.station = true → (zone t z).valveOwed = none)
          ∧ (heldByOther s z x.station = false → (zone t z).valveOwed = some x
              ∧ ((zone s z).state.holds = false ∨ namesStation (zoneRec s z) x.station = false →
                  Queued t x.station x.code true)))
      ∧ (∀ x, (zone s z).pumpOwed = some x →
          (heldByOther s z x.station = true → (zone t z).pumpOwed = none)
          ∧ (heldByOther s z x.station = false → (zone t z).pumpOwed = some x
              ∧ ((zone s z).state.holds = false ∨ namesStation (zoneRec s z) x.station = false →
                  (zone s z).valveOwed.all (fun y => y.station != x.station) = true → Queued t x.station x.code true)))
      ∧ ((zone s z).pumpOwed = none → (zone t z).pumpOwed = none)
      ∧ ((zone s z).valveOwed = none → (zone t z).valveOwed = none)
      ∧ t.seq = s.seq ∧ t.mgmt = s.mgmt ∧ (∀ y : Fin 6, y ≠ z → zone t y = zone s y)

/-! ### Relay and permits -/

/-- UPSTREAM_COMMAND by the segment of its destination and the judgement of its payload (R142, R144, R147,
R148). Toward another upstream station the port stays Receiving through the ack position (R125), for a time that is
free (log 40) and the 5 ms of the idle gap (log 9). A command that passes takes the Relay slot also where that still
holds a directed frame answered at its deadline whose try is on the line, the model's reading (log 19). An answer at
once has the port in Receiving until its stop bit (R129, O2), at a place in the ack position that is free (log 56) and in
milliseconds that are the model's rounding (log 9). In every case
the Sequencer, the store, the Management Unit, the cycle master and the channels are as they were; for a command that
does not pass, so are the Arbiter and the Relay Unit but for the Last Refusal record. -/
def Obligations.UpstreamCommandIsJudged : Prop :=
  ∀ (s : State) (dst src : Nat) (payload : List Byte), s.powered = true → canReceive s.up = true →
    stationOk dst = true → stationOk src = true → payloadOk payload = true →
    ∃ t, exec (.upstreamCommand dst src payload) s = .next t
      ∧ t.seq = s.seq ∧ t.store = s.store ∧ t.mgmt = s.mgmt ∧ t.cyc = s.cyc ∧ t.chans = s.chans
      ∧ (segment s dst = .own → SendsAck s t .upstream .nakM ∧ t.arb = s.arb ∧ t.relay = s.relay)
      ∧ (segment s dst = .upstream ∨ segment s dst = .absent →
          t.up =
              { s.up with
                line := .receiving, gap := .running (s.now + 5 + Config.freeTraffic s.freeIndex false)
                dominant := .stopped, answer := none }
            ∧ t.arb = s.arb ∧ t.relay = s.relay)
      ∧ (segment s dst = .field →
          (judgeDirected s dst payload = .malformed →
            SendsAck s t .upstream .nakM ∧ t.arb = s.arb ∧ t.relay = s.relay)
          ∧ (∀ r, judgeDirected s dst payload = .refused r →
              SendsAck s t .upstream .nakR ∧ t.arb = s.arb
                ∧ t.relay = { s.relay with
                    lastRefusal := some { origin := src, dst := dst, code := payload.head?.map BitVec.toNat, reason := r } })
          ∧ (∀ p adjusted, judgeDirected s dst payload = .passed p adjusted → slotHoldsBroadcast s = true →
              SendsAck s t .upstream .nakB ∧ t.arb = s.arb ∧ t.relay = s.relay)
          ∧ (∀ p adjusted, judgeDirected s dst payload = .passed p adjusted → slotHoldsBroadcast s = false →
              t.up.line = .holding
                ∧ t.relay.record =
                    some
                      { dst := dst, frame := { dst := dst, src := src, kind := .cmd, sub := 0, payload := p }
                        adjusted := adjusted, tries := 0, onLine := false, deadline := .running (s.now + 300) }
                ∧ t.arb.relaySlot =
                    some
                      { frame := { dst := dst, src := src, kind := .cmd, sub := 0, payload := p }
                        broadcast := false, late := false }))

/-- The judgement of a directed command (R144, R145): Owned and Frost Hold come before the Permit Table, the
first matching entry decides, and the class default decides without one. The four actions of an entry: Pass, Pass-In
in the states of its set, Clamp on the byte at its offset, Refuse. A passed payload that a clamp changed is marked
adjusted, which its answer shows as ACK-A (R149, O36). The judgement of a broadcast (R146): code 10H is always Owned,
the off or close code of any zone that holds a station is Frost Hold, entries of class All alone match, and without a
match it passes. -/
def Obligations.PermitsDecideInOrder : Prop :=
  ∀ (s : State) (dst : Nat) (code : Byte) (rest : List Byte),
    judgeDirected s dst [] = .malformed
    ∧ (code = 0x10 → isFieldClass (pageOf s 1) classBurner dst = true → judgeDirected s dst (code :: rest) = .refused .owned)
    ∧ (¬(code = 0x10 ∧ isFieldClass (pageOf s 1) classBurner dst = true) → code.toNat ∈ heldCodes s dst →
        judgeDirected s dst (code :: rest) = .refused .frostHold)
    ∧ (∀ pre e post, ¬(code = 0x10 ∧ isFieldClass (pageOf s 1) classBurner dst = true) → code.toNat ∉ heldCodes s dst →
        permits s = pre ++ e :: post →
        (∀ x ∈ pre, ¬((x.cls = 7 ∨ x.cls = classOf (pageOf s 1) dst) ∧ (x.code = 255 ∨ x.code = code.toNat))) →
        (e.cls = 7 ∨ e.cls = classOf (pageOf s 1) dst) → (e.code = 255 ∨ e.code = code.toNat) →
        judgeDirected s dst (code :: rest) = applyPermit e.action s.seq.sup (code :: rest))
    ∧ (¬(code = 0x10 ∧ isFieldClass (pageOf s 1) classBurner dst = true) → code.toNat ∉ heldCodes s dst →
        (∀ x ∈ permits s, ¬((x.cls = 7 ∨ x.cls = classOf (pageOf s 1) dst) ∧ (x.code = 255 ∨ x.code = code.toNat))) →
        judgeDirected s dst (code :: rest) =
          if isFieldClass (pageOf s 1) classBurner dst then .refused .table else .passed (code :: rest) false)
    ∧ (code.toNat ∈ heldCodes s dst ↔
        ∃ (z : Fin 6) (x : ZoneStation), (zone s z).state.holds = true
          ∧ ((zoneRec s z).pump = some x ∨ (zoneRec s z).valve = some x) ∧ x.station = dst ∧ x.releaseCode = code.toNat)
    ∧ judgeBroadcast s [] = .malformed
    ∧ (code = 0x10 → judgeBroadcast s (code :: rest) = .refused .owned)
    ∧ (code ≠ 0x10 → ∀ (z : Fin 6) (x : ZoneStation), (zone s z).state.holds = true →
        (zoneRec s z).pump = some x ∨ (zoneRec s z).valve = some x → x.releaseCode = code.toNat →
        judgeBroadcast s (code :: rest) = .refused .frostHold)
    ∧ (code ≠ 0x10 →
        (∀ (z : Fin 6) (x : ZoneStation), (zone s z).state.holds = true →
          (zoneRec s z).pump = some x ∨ (zoneRec s z).valve = some x → x.releaseCode ≠ code.toNat) →
        (∀ pre e post, permits s = pre ++ e :: post →
          (∀ x ∈ pre, ¬(x.cls = 7 ∧ (x.code = 255 ∨ x.code = code.toNat))) →
          e.cls = 7 → (e.code = 255 ∨ e.code = code.toNat) →
          judgeBroadcast s (code :: rest) = applyPermit e.action s.seq.sup (code :: rest))
        ∧ ((∀ x ∈ permits s, ¬(x.cls = 7 ∧ (x.code = 255 ∨ x.code = code.toNat))) →
            judgeBroadcast s (code :: rest) = .passed (code :: rest) false))
    ∧ (∀ (sup : SupState) (payload : List Byte),
        applyPermit .pass sup payload = .passed payload false
        ∧ applyPermit .refuse sup payload = .refused .table
        ∧ (∀ states, applyPermit (.passIn states) sup payload =
            if states.testBit sup.code then .passed payload false else .refused .state)
        ∧ (∀ offset low high,
            (payload.length ≤ offset → applyPermit (.clamp offset low high) sup payload = .malformed)
            ∧ (∀ pre b post, payload = pre ++ b :: post → pre.length = offset → low ≤ high → high < 256 →
                (low ≤ b.toNat ∧ b.toNat ≤ high → applyPermit (.clamp offset low high) sup payload = .passed payload false)
                ∧ (b.toNat < low →
                    applyPermit (.clamp offset low high) sup payload = .passed (pre ++ byteOf low :: post) true)
                ∧ (high < b.toNat →
                    applyPermit (.clamp offset low high) sup payload = .passed (pre ++ byteOf high :: post) true))))

/-- BROADCAST_COMMAND is judged (O28) and never answered; a passed one takes the Relay slot unless a broadcast on the
line holds it (R146), or a directed frame that has not been answered. A directed frame already answered at its deadline
gives the slot up, the model's reading (log 19). The Relay Record, the queue upstream, the Sequencer, the store and the
Management Unit are as they were. The 5 ms of the idle gap are the model's rounding (log 9). -/
def Obligations.BroadcastIsNeverAnswered : Prop :=
  ∀ (s : State) (src : Nat) (payload : List Byte), s.powered = true → canReceive s.up = true →
    stationOk src = true → payloadOk payload = true →
    ∃ t, exec (.broadcastCommand src payload) s = .next t
      ∧ t.up = { s.up with line := .idle, gap := .running (s.now + 5), dominant := .stopped, answer := none }
      ∧ t.relay.record = s.relay.record ∧ t.relay.utq = s.relay.utq ∧ t.seq = s.seq ∧ t.store = s.store ∧ t.mgmt = s.mgmt
      ∧ (judgeBroadcast s payload = .malformed → t.arb = s.arb ∧ t.relay = s.relay)
      ∧ (∀ r, judgeBroadcast s payload = .refused r →
          t.arb = s.arb
            ∧ t.relay.lastRefusal = some { origin := src, dst := 0, code := payload.head?.map BitVec.toNat, reason := r })
      ∧ (∀ p adjusted, judgeBroadcast s payload = .passed p adjusted →
          t.relay = s.relay
            ∧ t.arb.relaySlot =
                if (slotHoldsBroadcast s && relayOnLine s) || s.arb.relaySlot.any (fun x => !x.broadcast && !x.late) then
                  s.arb.relaySlot
                else
                  some
                    { frame := { dst := 0, src := src, kind := .cmd, sub := 0, payload := p }, broadcast := true, late := false })

/-- RELAY_DEADLINE_EXPIRY: the record is removed, the hold is released with NAK-T, Relay Timeout is latched; a
frame on the line leaves its slot at its try's end, another at once (R150). The port sends
the answer until its stop bit (R129, O2), in Holding by the model's reading, at a place in the ack position that is free
(log 56); its milliseconds are the model's rounding (log 9). Whether another station takes the line at the release is
free (log 20). -/
def Obligations.RelayDeadlineAnswersTooLate : Prop :=
  ∀ (s : State) (c : RelayRecord), s.powered = true → s.relay.record = some c → c.deadline.due s.now = true →
    ∃ t, exec .relayDeadlineExpiry s = .next t
      ∧ t.relay.record = none ∧ latched t .relayTimeout = true
      ∧ (s.up.line = .holding → SendsAck s t .upstream .nakT ∨ t.up.line = .receiving ∧ t.up.answer = none)
      ∧ (c.onLine = true → relayOnLine s = true →
          t.arb.relaySlot = s.arb.relaySlot.map (fun x => { x with late := true }) ∧ t.field = s.field)
      ∧ (c.onLine = false ∨ relayOnLine s = false → t.arb.relaySlot = none)
      ∧ t.seq = s.seq ∧ t.store = s.store

/-- REPORT_TIMER_EXPIRY: a report of the state stands in the queue upstream, and the timer restarts at 2 s
(R153). Its payload shows the state, the attempt, the present flags and filtered values, the zone states and the event
set at the bytes of R178; that bits without a field are 0 is the model's choice (log 55), as is the cause bit 0 outside an
attempt (log 62). -/
def Obligations.ReportIsQueued : Prop :=
  ∀ (s : State), s.powered = true → s.relay.report.due s.now = true → UtqForm s.relay.utq →
    ∃ t, exec .reportTimerExpiry s = .next t
      ∧ t.relay.report = .running (s.now + 2000)
      ∧ (∃ e ∈ t.relay.utq, e.frame = reportFrame s)
      ∧ (reportFrame s).dst = 0 ∧ (reportFrame s).src = ownStation s
      ∧ (reportFrame s).kind = .rep ∧ (reportFrame s).sub = 0
      ∧ ShowsReport s (reportFrame s).payload
      ∧ t.seq = s.seq ∧ t.store = s.store ∧ t.relay.record = s.relay.record

/-! ### The appliance line -/

/-- What a port does alone. An opener is followed; a frame with a bad check word is discarded with the idle gap from
its end; an abandoned one is waited out, for a time that is free (log 40) (R126, R127). The port enters Stuck from any
other state once the line can have been dominant for more than 1 s, with Line Stuck latched and its try ended, also one
that waits after a lost arbitration, the model's choice (R131; log 21), sends nothing there, and returns from it to Idle (R134); a line held dominant past a hold counts as busy until it is
released (R130). What the port makes of the line: a frame of legal header reads back from its own levels, with a
recessive pause of at most one character time before each character after the first, and is the command its table
gives, whatever follows it; a longer pause between two characters, a dominant stop bit and a header outside its values
abandon it, and other check bytes fail the check (R126, R127, R142, R143, R177). Levels are taken by whole bit times
(log 52). The 5 and 998 ms are the model's (log 9, 41). -/
def Obligations.PortFollowsTheLine : Prop :=
  (∀ (s : State) (id : PortId), s.powered = true →
    (mayTransmit (port s id) = true →
      exec (.openerSeen id) s =
        .next
          (renewOrder
            (onPort id (fun p => { p with line := .receiving, gap := .busy, dominant := .running (s.now + 998) }) s)))
    ∧ (canReceive (port s id) = true →
        exec (.frameCheckFail id) s =
          .next (renewOrder (onPort id (fun p => { p with line := .idle, gap := .running (s.now + 5), dominant := .stopped }) s)))
    ∧ (canReceive (port s id) = true →
        exec (.frameAbandoned id) s =
          .next
            (renewOrder
              (onPort id
                (fun p =>
                  { p with
                    line := .receiving, gap := .running (s.now + 5 + Config.freeTraffic s.freeIndex (id == .field))
                    dominant := .stopped })
                s)))
    ∧ ((port s id).line = .stuck →
        exec (.stuckEnd id) s =
          .next (renewOrder (onPort id (fun p => { p with line := .idle, gap := .running (s.now + 5), dominant := .stopped }) s)))
    ∧ ((port s id).line = .receiving → (port s id).gap = .held →
        mayTransmit (port s id) = false
          ∧ exec (.stuckEnd id) s =
              .next (renewOrder (onPort id (fun p => { p with gap := .running (s.now + 5), dominant := .stopped }) s)))
    ∧ ((port s id).line ≠ .stuck →
        ((port s id).dominant.isRunning = false ∨ (port s id).dominant.due s.now = true →
          ∃ t, exec (.lineStuck id) s = .next t ∧ (port t id).line = .stuck ∧ latched t .lineStuck = true
            ∧ (port t id).trying = none)
        ∧ ((port s id).dominant.isRunning = true → (port s id).dominant.due s.now = false →
          exec (.lineStuck id) s = .next (renewOrder s)))
    ∧ ((port s id).line = .stuck →
        (id = .field → exec .arbiterGrant s = .next (renewOrder s))
        ∧ (id = .upstream → exec .upstreamSend s = .next (renewOrder s))))
  ∧ (∀ (s : State) (f : Frame), headerOk f.dst f.src f.kind.code f.sub f.payload.length = true →
      (∀ (pauses : List Nat) (levels rest : List Level),
          pauses.length = f.wire.length → pauses.head? = some 0 → (∀ n ∈ pauses, n ≤ 10) →
          levels = (pauses.zip f.wire).flatMap (fun x => List.replicate x.1 true ++ charLevels x.2) ++ rest →
          readLevels levels = .valid f ∧ heard .upstream s levels = upstreamRow s f ∧ heard .field s levels = fieldRow s f)
        ∧ (∀ (k n : Nat) (rest : List Level), 0 < k → k < f.wire.length → 10 < n →
            ∀ id ∈ [PortId.upstream, PortId.field],
            heard id s ((f.wire.take k).flatMap charLevels ++ List.replicate n true ++ rest) = .frameAbandoned id)
        ∧ (∀ (k : Nat) (data rest : List Level), k < f.wire.length → data.length = 8 →
            ∀ id ∈ [PortId.upstream, PortId.field],
              heard id s ((f.wire.take k).flatMap charLevels ++ (false :: data) ++ (false :: rest)) = .frameAbandoned id)
        ∧ ∀ a b : Byte, [a, b] ≠ f.wire.drop (4 + f.payload.length) →
            readFrame (f.wire.take (4 + f.payload.length) ++ [a, b]) = .checkFails)
  ∧ [Kind.cmd, .smp, .mrk, .dmd, .mrq, .mrs, .alr, .rep].map Kind.code = [1, 2, 3, 4, 5, 6, 7, 8]
  ∧ ∀ (dst src kind length : Byte) (rest : List Byte),
      headerOk dst.toNat src.toNat (kind.toNat / 16) (kind.toNat % 16) length.toNat = false →
      readFrame (dst :: src :: kind :: length :: rest) = .abandoned

/-- At a free line with no frame waiting to be sent again. ARBITER_GRANT takes the Sequencer slot, the Mark slot,
the Relay slot, the Frost queue's head, the first that claims (R36, R135, R137); UPSTREAM_SEND sends the head of
the queue, one try at a time (R133, R152). The source of an Output Set and of a Frost frame is the own station as
page 0 gives it at the grant, the model's choice (log 43). -/
def Obligations.FreeLinesAreGranted : Prop :=
  ∀ (s : State), s.powered = true →
    (mayTransmit s.field = true → s.field.trying = none →
        ∃ t, exec .arbiterGrant s = .next t ∧ t.seq = s.seq ∧ t.store = s.store ∧ t.up = s.up
          ∧ (∀ x, s.arb.inFlight = some x →
              Sends t .field .sequencer (setFrame s x.frame) ∧ t.arb = s.arb)
          ∧ (s.arb.inFlight = none → ∀ p, s.arb.pending = some p →
              Sends t .field .sequencer (setFrame s p)
                ∧ t.arb = { s.arb with inFlight := some { frame := p, tries := 0 }, pending := none })
          ∧ (s.arb.inFlight = none → s.arb.pending = none →
              (∀ i, s.arb.markWaiting = some i →
                Sends t .field .mark (markFrame s i) ∧ t.arb = { s.arb with markWaiting := none, markOnLine := some i })
              ∧ (s.arb.markWaiting = none →
                  (∀ x, s.arb.relaySlot = some x →
                    Sends t .field .relay x.frame ∧ t.arb = s.arb
                      ∧ t.relay.record = s.relay.record.map (fun c => { c with onLine := true }))
                  ∧ (s.arb.relaySlot = none →
                      (∀ e ∈ s.arb.frostQ.head?, e.inFlight = false →
                        Sends t .field .frost (frostFrame s e.station e.frame.code)
                          ∧ t.arb = { s.arb with frostQ := { e with inFlight := true } :: s.arb.frostQ.tail })
                      ∧ (s.arb.frostQ = [] → t = renewOrder s)))))
    ∧ (mayTransmit s.up = true → s.up.trying = none →
        (∀ e rest, s.relay.utq = e :: rest →
          ∃ t, exec .upstreamSend s = .next t ∧ Sends t .upstream .utq e.frame
            ∧ t.relay = { s.relay with utq := { e with onLine := true } :: rest } ∧ t.field = s.field ∧ t.arb = s.arb)
        ∧ (s.relay.utq = [] → exec .upstreamSend s = .next (renewOrder s)))

/-- A frame that lost arbitration is sent again from the opener at the next grant, a mark with its index and
state code as they then stand (R131, R135). A relay frame is sent as its slot then holds it: that a broadcast which
has replaced the waiting one has its grant is the model's choice (log 53). A frame whose result is discarded, and a relay frame past its
deadline, are not sent again (R38, R150; the model's reading, log 21). -/
def Obligations.LostArbitrationIsSentAgain : Prop :=
  ∀ (s : State) (id : PortId) (x : Try), s.powered = true → (port s id).trying = some x →
    (x.onLine = true → x.orphan = true →
      ∃ t, exec (.arbitrationLost id) s = .next t
        ∧ (port t id).line = .receiving ∧ (port t id).trying = none ∧ t.arb = s.arb ∧ t.seq = s.seq)
    ∧ (x.onLine = true → x.orphan = false → x.owner = .relay → slotLate s = true →
      ∃ t, exec (.arbitrationLost id) s = .next t
        ∧ (port t id).line = .receiving ∧ (port t id).trying = none ∧ t.arb = { s.arb with relaySlot := none } ∧ t.seq = s.seq)
    ∧ (x.onLine = true → x.orphan = false → (x.owner = .relay → slotLate s = false) →
      ∃ t, exec (.arbitrationLost id) s = .next t
        ∧ (port t id).line = .receiving ∧ (port t id).trying = some { x with onLine := false }
        ∧ (x.owner = .mark → t.arb.markWaiting = (if s.arb.markWaiting.isSome then s.arb.markWaiting else s.arb.markOnLine))
        ∧ (x.owner ≠ .mark → t.arb = s.arb) ∧ t.relay = s.relay ∧ t.seq = s.seq)
    ∧ (mayTransmit s.field = true → id = .field →
        ∃ t, exec .arbiterGrant s = .next t
          ∧ (x.owner = .sequencer ∨ x.owner = .frost → Sends t .field x.owner x.frame ∧ t.arb = s.arb)
          ∧ (x.owner = .mark → ∀ i, s.arb.markWaiting = some i → Sends t .field .mark (markFrame s i))
          ∧ (x.owner = .relay → ∀ y, s.arb.relaySlot = some y → Sends t .field .relay y.frame))
    ∧ (mayTransmit s.up = true → id = .upstream → x.owner = .utq →
        ∃ t, exec .upstreamSend s = .next t ∧ Sends t .upstream .utq x.frame ∧ t.relay = s.relay)

/-- The end of an Output Set try in its ack position (R37, R128, R130, R132): acked it leaves the slot; with a newer
set pending a failed one is superseded; below the third try it waits for another; the third fails the attempt
with the valve open, and is offered again after 2 s with it closed, also with a valve-open set pending (log 44); a
refusal gives the frame up at once, whatever is pending, with the same two outcomes (R37). The 5 ms of the idle gap
(log 9) and the 0 of absent temperatures in the summary (log 38) are the model's. -/
def Obligations.OutputSetTryEnds : Prop :=
  ∀ (s : State) (x : Try) (y : InFlight),
    s.powered = true → s.field.trying = some x → x.owner = .sequencer → x.onLine = true → x.orphan = false →
    x.frame.needsAck = true → s.arb.inFlight = some y →
    (∀ v ∈ [(0x60 : Byte), 0x61],
      ∃ t, exec (.ackByte v true) s = .next t
        ∧ t.arb = { s.arb with inFlight := none } ∧ t.seq = s.seq
        ∧ t.field = { s.field with line := .idle, gap := .running (s.now + 5), dominant := .stopped, trying := none })
    ∧ (∀ c, failsFieldTry c = true →
        (s.arb.pending.isSome = true → ∃ t, exec c s = .next t ∧ t.arb = { s.arb with inFlight := none } ∧ t.seq = s.seq)
        ∧ (s.arb.pending = none → y.tries + 1 < 3 →
            ∃ t, exec c s = .next t
              ∧ t.arb = { s.arb with inFlight := some { y with tries := y.tries + 1 } } ∧ t.seq = s.seq)
        ∧ (s.arb.pending = none → 3 ≤ y.tries + 1 → y.frame.set.valve = false →
            ∃ t, exec c s = .next t
              ∧ t.arb = { s.arb with inFlight := none } ∧ t.seq = { s.seq with rePlace := .running (s.now + 2000) }
              ∧ latched t .fieldNoAnswer = true)
        ∧ (s.arb.pending = none → 3 ≤ y.tries + 1 → y.frame.set.valve = true → s.seq.sup.fuel = true →
            0 < (schedule s).postMin → ∀ a, s.seq.attempt = some a → a.outcome = none →
            ∃ t, exec c s = .next t ∧ Decided s a (.failed .burnerNoAnswer) t ∧ t.arb.inFlight = none))
    ∧ (∀ v ∈ [(0x71 : Byte), 0x72], y.frame.set.valve = false →
        ∃ t, exec (.ackByte v true) s = .next t
          ∧ t.arb = { s.arb with inFlight := none } ∧ t.seq = { s.seq with rePlace := .running (s.now + 2000) }
          ∧ latched t .fieldNoAnswer = true)
    ∧ (∀ v ∈ [(0x71 : Byte), 0x72], y.frame.set.valve = true → s.seq.sup.fuel = true → 0 < (schedule s).postMin →
        ∀ a, s.seq.attempt = some a → a.outcome = none →
        ∃ t, exec (.ackByte v true) s = .next t ∧ Decided s a (.failed .burnerNoAnswer) t ∧ t.arb.inFlight = none)

/-- The end of a relay transaction's try (R149): the field station's answer is passed on and the hold
released; a try fails with no ack, NAK-B, NAK-T, another byte, a dominant stop bit or a collision (R128, R132), and the
third failed one is answered NAK-T and Field No Answer is latched. Where the answer has been given at the deadline, the
frame leaves the slot at its try's end however it ends, and nothing else comes of it (R150). The port sends
the answer until its stop bit (R129, O2), in Holding by the model's reading, at a place in the ack position that is free
(log 56); its milliseconds are the model's rounding (log 9). Whether another station takes the line at the release is
free (log 20). -/
def Obligations.RelayTryEnds : Prop :=
  ∀ (s : State) (x : Try) (y : SlotFrame),
    s.powered = true → s.field.trying = some x → x.owner = .relay → x.onLine = true → x.orphan = false →
    x.frame.needsAck = true → s.arb.relaySlot = some y →
    (∀ r, y.late = false → y.broadcast = false → s.relay.record = some r → s.up.line = .holding →
      (∀ z ∈ [((0x60 : Byte), if r.adjusted then Ack.ackA else .ack), (0x61, .ackA), (0x71, .nakR), (0x72, .nakM)],
        ∃ t, exec (.ackByte z.1 true) s = .next t
          ∧ t.relay = { s.relay with record := none } ∧ t.arb = { s.arb with relaySlot := none }
          ∧ (SendsAck s t .upstream z.2 ∨ t.up.line = .receiving ∧ t.up.answer = none)
          ∧ t.mgmt = s.mgmt ∧ t.seq = s.seq)
      ∧ ∀ c, failsFieldTry c = true →
          (r.tries + 1 < 3 →
            ∃ t, exec c s = .next t
              ∧ t.relay = { s.relay with record := some { r with tries := r.tries + 1, onLine := false } }
              ∧ t.arb = s.arb ∧ t.up = s.up ∧ t.mgmt = s.mgmt ∧ t.seq = s.seq)
          ∧ (3 ≤ r.tries + 1 →
            ∃ t, exec c s = .next t
              ∧ t.relay.record = none ∧ t.arb = { s.arb with relaySlot := none } ∧ latched t .fieldNoAnswer = true
              ∧ (SendsAck s t .upstream .nakT ∨ t.up.line = .receiving ∧ t.up.answer = none) ∧ t.seq = s.seq))
    ∧ (y.late = true →
        ∀ c, failsFieldTry c = true ∨ (∃ v ∈ [(0x60 : Byte), 0x61, 0x71, 0x72], c = .ackByte v true) →
          ∃ t, exec c s = .next t
            ∧ t.arb = { s.arb with relaySlot := none } ∧ t.field.trying = none
            ∧ t.relay = s.relay ∧ t.up = s.up ∧ t.mgmt = s.mgmt ∧ t.seq = s.seq)

/-- The end of a Frost queue try (R106): delivered or refused the frame leaves its entry, to its successor or for good. A
failed one, by no ack, NAK-B, NAK-T, another byte, a dominant stop bit or a collision (R128, R132), gives way to its
successor, of which the Frost Watch is told nothing; without one it is tried again below the third. A release delivered is
no longer owed to its station; one refused or given up by a zone that does not hold is owed to it, and the refresh timer
runs; of any other frame the zones learn nothing. Giving up alone latches Field No Answer. That the owed release keeps
this station and code is the model's reading (log 25), and that it takes the place of another one owed its choice
(log 49). -/
def Obligations.FrostTryEnds : Prop :=
  ∀ (s : State) (x : Try) (e : FrostEntry) (rest left : List FrostEntry),
    s.powered = true → s.field.trying = some x → x.owner = .frost → x.onLine = true → x.orphan = false →
    x.frame.needsAck = true → s.arb.frostQ = e :: rest → e.inFlight = true →
    left =
      (match e.successor with
       | some f => { e with frame := f, tries := 0, inFlight := false, successor := none } :: rest
       | none => rest) →
    (∀ v ∈ [(0x60 : Byte), 0x61, 0x71, 0x72],
      ∃ t, exec (.ackByte v true) s = .next t ∧ t.arb = { s.arb with frostQ := left } ∧ t.seq = s.seq ∧ t.mgmt = s.mgmt
        ∧ (v.toNat < 0x70 → e.frame.release = true →
            ∀ y, owed (zone t e.frame.zone) e.frame.toValve = some y → y.station ≠ e.station)
        ∧ (0x70 ≤ v.toNat → e.frame.release = true → (zone s e.frame.zone).state.holds = false →
            owed (zone t e.frame.zone) e.frame.toValve = some { station := e.station, code := e.frame.code }
              ∧ (zone t e.frame.zone).refresh ≠ .stopped)
        ∧ (e.frame.release = false → t.frost = s.frost)
        ∧ (0x70 ≤ v.toNat → (zone s e.frame.zone).state.holds = true → t.frost = s.frost))
    ∧ ∀ c, failsFieldTry c = true →
        (e.successor.isSome = true →
          ∃ t, exec c s = .next t
            ∧ t.arb = { s.arb with frostQ := left } ∧ t.frost = s.frost ∧ t.mgmt = s.mgmt ∧ t.seq = s.seq)
        ∧ (e.successor = none → e.tries + 1 < 3 →
          ∃ t, exec c s = .next t
            ∧ t.arb = { s.arb with frostQ := { e with tries := e.tries + 1, inFlight := false } :: rest }
            ∧ t.frost = s.frost ∧ t.mgmt = s.mgmt ∧ t.seq = s.seq)
        ∧ (e.successor = none → 3 ≤ e.tries + 1 →
          ∃ t, exec c s = .next t
            ∧ t.arb = { s.arb with frostQ := rest } ∧ latched t .fieldNoAnswer = true ∧ t.seq = s.seq
            ∧ (e.frame.release = true → (zone s e.frame.zone).state.holds = false →
                owed (zone t e.frame.zone) e.frame.toValve = some { station := e.station, code := e.frame.code }
                  ∧ (zone t e.frame.zone).refresh ≠ .stopped)
            ∧ (e.frame.release = false ∨ (zone s e.frame.zone).state.holds = true → t.frost = s.frost))

/-- HOLD_BEGUN starts the line hold limit and the try goes on; at HOLD_LIMIT_EXPIRY the try ends as no ack, as at
ACK_POSITION_END, but the line counts as busy (R130). That the 500 ms run from HOLD_BEGUN is the model's choice
(log 51), and the 998 ms of dominant time left are its (log 9, 41). At a port that has no try and follows no frame,
HOLD_BEGUN tells that the line is in use until its release (R125, R138; log 40). -/
def Obligations.HoldRunsToItsLimit : Prop :=
  (∀ (s : State), s.powered = true → s.field.trying = none → s.field.line = .idle ∨ s.field.line = .receiving →
    canReceive s.field = false → s.field.gap ≠ .held →
    exec .holdBegun s =
        .next (renewOrder { s with field := { s.field with gap := .held, dominant := .running (s.now + 998) } })
      ∧ mayTransmit { s.field with gap := .held, dominant := .running (s.now + 998) } = false)
  ∧ ∀ (s : State) (x : Try), s.powered = true → s.field.trying = some x → x.onLine = true → x.frame.needsAck = true →
    (x.hold.isRunning = false →
      exec .holdBegun s =
        .next
          (renewOrder
            { s with
              field :=
                { s.field with
                  dominant := .running (s.now + 998), trying := some { x with hold := .running (s.now + 500) } } }))
    ∧ (x.hold.due s.now = true →
        ∃ t u, exec .holdLimitExpiry s = .next t ∧ exec .ackPositionEnd s = .next u
          ∧ t.field = { s.field with line := .receiving, gap := .held, trying := none } ∧ mayTransmit t.field = false
          ∧ t = { u with field := t.field })
    ∧ (x.hold.due s.now = true → x.owner = .sequencer → x.orphan = false → s.arb.pending.isSome = true →
        ∃ t, exec .holdLimitExpiry s = .next t
          ∧ t.field = { s.field with line := .receiving, gap := .held, trying := none } ∧ mayTransmit t.field = false
          ∧ t.arb = { s.arb with inFlight := none } ∧ t.seq = s.seq)

/-- FRAME_SENT: a mark and a relayed broadcast leave their slots, a frame upstream leaves the queue unless it was renewed
meanwhile, and a response sent empties the mailbox (R130, R135, R146, R152, R168). COLLISION fails the try; a frame
without an ack position, a mark, a relayed broadcast or a frame upstream, keeps its place, and the port waits for the next
idle gap (5 ms, log 9), for a time that is free (R132, R133, R135; log 40). -/
def Obligations.TryWithoutAckEnds : Prop :=
  ∀ (s : State) (x : Try), s.powered = true → x.onLine = true → x.orphan = false →
    (x.frame.needsAck = false →
      (s.field.trying = some x → x.owner = .mark →
        ∃ t, exec (.frameSent .field) s = .next t
          ∧ t.arb = { s.arb with markOnLine := none } ∧ t.field.trying = none ∧ t.field.line = .idle ∧ t.seq = s.seq)
      ∧ (∀ y, s.arb.relaySlot = some y → y.broadcast = true → y.late = false → s.field.trying = some x → x.owner = .relay →
          ∃ t, exec (.frameSent .field) s = .next t
            ∧ t.arb = { s.arb with relaySlot := none } ∧ t.relay = s.relay ∧ t.mgmt = s.mgmt
            ∧ t.field.trying = none ∧ t.field.line = .idle ∧ t.seq = s.seq)
      ∧ (∀ e rest, s.relay.utq = e :: rest → s.up.trying = some x → x.owner = .utq → s.mgmt.restart = .nothing →
          ∃ t, exec (.frameSent .upstream) s = .next t
            ∧ t.relay = { s.relay with utq := if e.renewed then { e with onLine := false, renewed := false } :: rest else rest }
            ∧ t.mgmt = (if x.frame.kind = .mrs then { s.mgmt with mailbox := .empty } else s.mgmt)
            ∧ t.up.trying = none ∧ t.up.line = .idle ∧ t.seq = s.seq))
    ∧ (s.field.trying = some x → x.owner = .mark →
      ∃ t, exec (.collision .field) s = .next t
        ∧ t.field =
            { s.field with
              line := .receiving, gap := .running (s.now + 5 + Config.freeTraffic s.freeIndex true), dominant := .stopped
              trying := none }
        ∧ t.arb.markWaiting = (if s.arb.markWaiting.isSome then s.arb.markWaiting else s.arb.markOnLine)
        ∧ t.arb.markOnLine = none)
    ∧ (∀ y, s.arb.relaySlot = some y → y.broadcast = true → y.late = false → s.field.trying = some x → x.owner = .relay →
        ∃ t, exec (.collision .field) s = .next t
          ∧ t.field =
              { s.field with
                line := .receiving, gap := .running (s.now + 5 + Config.freeTraffic s.freeIndex true), dominant := .stopped
                trying := none }
          ∧ t.arb = s.arb ∧ t.relay = s.relay ∧ t.mgmt = s.mgmt ∧ t.seq = s.seq)
    ∧ (∀ e rest, s.relay.utq = e :: rest → s.up.trying = some x → x.owner = .utq →
        ∃ t, exec (.collision .upstream) s = .next t
          ∧ t.up =
              { s.up with
                line := .receiving, gap := .running (s.now + 5 + Config.freeTraffic s.freeIndex false), dominant := .stopped
                trying := none }
          ∧ t.relay = { s.relay with utq := { e with onLine := false, renewed := false } :: rest } ∧ t.mgmt = s.mgmt)

/-! ### The management channel -/

/-- A request to a mailbox that is not Empty is answered NAK-B, and a malformed one to an Empty mailbox NAK-M;
neither has any other effect (R168). Which request a payload is, by its command code and its length (R179).
The port stays in Receiving until the NAK's stop bit (R129, O2); where in its ack position the NAK stands is free
(log 56), and its milliseconds are the model's rounding (log 9). -/
def Obligations.MailboxTurnsRequestsAway : Prop :=
  (∀ (s : State) (c : Instr), s.powered = true → canReceive s.up = true → isRequest c = true →
    (s.mgmt.mailbox ≠ .empty →
        exec c s = .next (renewOrder (complete .upstream (some .nakB) s))
          ∧ SendsAck s (complete .upstream (some .nakB) s) .upstream .nakB)
    ∧ (s.mgmt.mailbox = .empty → c = .malformedManagementRequest ∨ c.wellFormed = false →
        exec c s = .next (renewOrder (complete .upstream (some .nakM) s))
          ∧ SendsAck s (complete .upstream (some .nakM) s) .upstream .nakM))
  ∧ (requestOf [0x01] = .stat ∧ requestOf [0x08] = .flsh ∧ requestOf [0x0A] = .rlck ∧ requestOf [0x0B] = .clrh
      ∧ requestOf [0x0C] = .rfsl ∧ requestOf [0x0D] = .srst ∧ requestOf [0x0E] = .frst)
  ∧ (∀ a b c : Byte,
      requestOf [0x02, a] = .chan a ∧ requestOf [0x03, a] = .attr a ∧ requestOf [0x09, a] = .eras a
        ∧ requestOf [0x04, a, b, c] = .evnt (a ++ b ++ c) ∧ requestOf [0x05, a, b, c] = .amsk (a ++ b ++ c)
        ∧ requestOf [0x06, a, b, c] = .openTransfer a b c)
  ∧ (∀ (index : Byte) (data : List Byte), data.length = 0 ∨ data.length = 14 ∨ data.length = 16 →
      requestOf (0x07 :: index :: data) = .chnk index data)
  ∧ requestOf [] = .malformedManagementRequest
  ∧ ∀ (code : Byte) (args : List Byte),
      (code.toNat = 0 ∨ 14 < code.toNat ∨ (code.toNat ∈ [1, 8, 10, 11, 12, 13, 14] ∧ args.length ≠ 0)
        ∨ (code.toNat ∈ [2, 3, 9] ∧ args.length ≠ 1) ∨ (code.toNat ∈ [4, 5, 6] ∧ args.length ≠ 3)
        ∨ (code.toNat = 7 ∧ args.length ≠ 1 ∧ args.length ≠ 15 ∧ args.length ≠ 17)) →
      requestOf (code :: args) = .malformedManagementRequest

/-- STAT, CHAN, ATTR and RFSL answer with their data and change nothing else (R169, R179). The data show the items at
the bytes and by the codes of chapter 12 (R33, R178, R179); the rounding of the times is the model's (log 17), and that
of the ACK's milliseconds too (log 9); where in its ack position the ACK stands is free (log 56). That the reason of no
outcome and of a Normal Stop is 0 (log 54), and bits without a field (log 55), is the model's choice. -/
def Obligations.ReadingCommandsOnlyAnswer : Prop :=
  (∀ (s : State),
    ShowsStat s (statData s) ∧ (∀ k : Fin 14, ShowsChannel s k (chanData s k))
      ∧ (∀ part ∈ [0, 1], ShowsAttempt s part (attrData s part)) ∧ ShowsRefusal s (rfslData s)
      ∧ ShowsConditions s (conditions s))
  ∧ CodesAsTabled
  ∧ ∀ (s : State), TakesRequest s →
    (∃ t, exec .stat s = .next t ∧ OnlyAnswers s t s.mgmt ∧ Answered t 0x01 .done (statData (executing s)))
    ∧ (∀ ch : Byte, ∃ t, exec (.chan ch) s = .next t ∧ OnlyAnswers s t s.mgmt
        ∧ (if h : ch.toNat < 14 then Answered t 0x02 .done (chanData s ⟨ch.toNat, h⟩) else Answered t 0x02 .outOfRange []))
    ∧ (∀ part : Byte, ∃ t, exec (.attr part) s = .next t ∧ OnlyAnswers s t s.mgmt
        ∧ (if part.toNat ≤ 1 then Answered t 0x03 .done (attrData s part.toNat) else Answered t 0x03 .outOfRange []))
    ∧ (∃ t, exec .rfsl s = .next t ∧ OnlyAnswers s t s.mgmt ∧ Answered t 0x0C .done (rfslData s))

/-- EVNT answers with the set as it stands and the real-time conditions, and clears the named events (R173);
AMSK replaces the alert mask (R174). The 0 in the bits of the condition byte that have no field is the model's choice
(log 55); where in its ack position the ACK stands is free (log 56), and its milliseconds are the model's rounding
(log 9). -/
def Obligations.EventsAreClearedAndMasked : Prop :=
  ∀ (s : State) (mask : BitVec 24), TakesRequest s →
    (∃ t, exec (.evnt mask) s = .next t
      ∧ OnlyAnswers s t { s.mgmt with events := s.mgmt.events &&& ~~~ mask.setWidth 20 }
      ∧ Answered t 0x04 .done (word24 s.mgmt.events.toNat ++ [byteOf (conditions s)]))
    ∧ (∃ t, exec (.amsk mask) s = .next t ∧ OnlyAnswers s t { s.mgmt with mask := mask.setWidth 20 }
        ∧ Answered t 0x05 .done [])

/-- A latching raises one alert when a masked event goes from not latched to latched, and only then (R174). The
alert carries the set with the new event. Where its offer evicts a sample, Upstream Drop joins the set after it: the
alert shows that too if the mask names Upstream Drop, and else the set as it stood before (log 12). -/
def Obligations.AlertsAreRaisedOnce : Prop :=
  ∀ (s : State) (e : Event), UtqForm s.relay.utq →
    latched (latch [e] s) e = true
    ∧ (latched s e = false → s.mgmt.mask.getLsbD e.bit = true →
        ∃ x ∈ (latch [e] s).relay.utq, x.frame =
          { dst := managingStation s, src := ownStation s, kind := .alr, sub := 0
            payload :=
              word24
                (if s.mgmt.mask.getLsbD Event.upstreamDrop.bit then (latch [e] s).mgmt.events
                 else s.mgmt.events ||| e.only).toNat })
    ∧ (latched s e = true ∨ s.mgmt.mask.getLsbD e.bit = false → (latch [e] s).relay = s.relay)

/-- OPEN, FLSH and the idle timer (R170, R172): the range, the transfer opened with its idle timer, the transfer
closed, and, whatever the port and the mailbox do, the transfer closed by its due idle timer, with Page Rejected and
Incomplete for a Load. Where in its ack position the ACK stands is free (log 56), and its milliseconds are the model's
rounding (log 9). -/
def Obligations.TransferOpensAndCloses : Prop :=
  (∀ (s : State) (direction first count : Byte), TakesRequest s →
    (2 ≤ direction.toNat ∨ 16 ≤ count.toNat ∨ (direction = 0 ∧ 14 ≤ first.toNat + count.toNat)
        ∨ (direction = 1 ∧ 21 ≤ first.toNat + count.toNat) →
      ∃ t, exec (.openTransfer direction first count) s = .next t ∧ OnlyAnswers s t s.mgmt ∧ Answered t 0x06 .outOfRange [])
    ∧ (count.toNat < 16 → direction = 0 → first.toNat + count.toNat < 14 →
        ∃ t, exec (.openTransfer direction first count) s = .next t ∧ Answered t 0x06 .done []
          ∧ t.mgmt.transfer = .loading first.toNat 0 count.toNat ∧ t.mgmt.idle = .running (s.now + 10000)
          ∧ t.store.heldIdentity = none ∧ t.seq = s.seq)
    ∧ (count.toNat < 16 → direction = 1 → first.toNat + count.toNat < 21 →
        ∃ t, exec (.openTransfer direction first count) s = .next t ∧ Answered t 0x06 .done []
          ∧ t.mgmt.transfer = .fetching first.toNat 0 count.toNat ∧ t.mgmt.idle = .running (s.now + 10000) ∧ t.seq = s.seq)
    ∧ (s.mgmt.transfer = .closed → ∃ t, exec .flsh s = .next t ∧ OnlyAnswers s t s.mgmt ∧ Answered t 0x08 .noTransfer [])
    ∧ (s.mgmt.transfer ≠ .closed →
        ∃ t, exec .flsh s = .next t ∧ Answered t 0x08 .done [] ∧ t.mgmt.transfer = .closed ∧ t.mgmt.idle = .stopped
          ∧ t.mgmt.buffer = s.mgmt.buffer ∧ t.store = { s.store with heldIdentity := none } ∧ t.seq = s.seq))
  ∧ ∀ (s : State), s.powered = true → s.mgmt.idle.due s.now = true →
      ∃ t, exec .idleTimerExpiry s = .next t ∧ t.mgmt.transfer = .closed ∧ t.mgmt.idle = .stopped
        ∧ t.mgmt.mailbox = s.mgmt.mailbox ∧ t.mgmt.buffer = s.mgmt.buffer
        ∧ t.store = { s.store with heldIdentity := none } ∧ t.seq = s.seq ∧ t.up = s.up ∧ t.field = s.field
        ∧ (∀ p c n, s.mgmt.transfer = .loading p c n →
            t.mgmt.lastReject = some .incomplete ∧ latched t .pageRejected = true)
        ∧ (∀ p c n, s.mgmt.transfer = .fetching p c n →
            t.mgmt.lastReject = s.mgmt.lastReject ∧ t.mgmt.events = s.mgmt.events ∧ t.relay = s.relay)

/-- CHNK by the transfer's state (R171): No Transfer, Wrong Order, a chunk laid into the buffer, a read asked of
the store, a chunk answered from the buffer. Where in its ack position the ACK stands is free
(log 56), and its milliseconds are the model's rounding (log 9). -/
def Obligations.ChunkIsJudged : Prop :=
  ∀ (s : State) (index : Byte) (data : List Byte), TakesRequest s → chunkLengthOk data = true →
    (s.mgmt.transfer = .closed →
      ∃ t, exec (.chnk index data) s = .next t ∧ OnlyAnswers s t s.mgmt ∧ Answered t 0x07 .noTransfer [])
    ∧ (∀ p c n, s.mgmt.transfer = .loading p c n → c < 4 →
        (index.toNat ≠ c ∨ data.length ≠ (if c = 3 then 14 else 16) →
          ∃ t, exec (.chnk index data) s = .next t ∧ OnlyAnswers s t s.mgmt ∧ Answered t 0x07 .wrongOrder [])
        ∧ (index.toNat = c → data.length = 16 → c < 3 →
          ∃ t, exec (.chnk index data) s = .next t ∧ Answered t 0x07 .done [index]
            ∧ t.mgmt.buffer = s.mgmt.buffer.take (16 * c) ++ data ++ s.mgmt.buffer.drop (16 * c + 16)
            ∧ t.mgmt.transfer = .loading p (c + 1) n ∧ t.mgmt.idle = .running (s.now + 10000)
            ∧ t.store = s.store ∧ t.seq = s.seq))
    ∧ (∀ p c n, s.mgmt.transfer = .fetching p c n → c < 4 →
        (index.toNat ≠ c ∨ data ≠ [] →
          ∃ t, exec (.chnk index data) s = .next t ∧ OnlyAnswers s t s.mgmt ∧ Answered t 0x07 .wrongOrder [])
        ∧ (index.toNat = c → data = [] → c = 0 →
          ∃ t, exec (.chnk index data) s = .next t
            ∧ t.mgmt = { s.mgmt with mailbox := .executing, idle := .running (s.now + 10000) }
            ∧ t.store = { s.store with mgmtClaim := some (.fetch p) } ∧ t.relay = s.relay ∧ t.up.answer = some .ack)
        ∧ (index.toNat = c → data = [] → 0 < c →
          ∃ t, exec (.chnk index data) s = .next t
            ∧ Answered t 0x07 .done
                (byteOf (c + (if s.mgmt.fetchFactory then 128 else 0)) :: slice s.mgmt.buffer (16 * c) (if c = 3 then 14 else 16))
            ∧ t.mgmt.transfer =
                (if c < 3 then .fetching p (c + 1) n else if n = 0 then .closed else .fetching (p + 1) 0 (n - 1))
            ∧ t.seq = s.seq))

/-- Chunk 3 of a Load hands the page to the Table Store: a safety page needs the link and STBY, LOCK or FLCK; a
page that fails a test is rejected with one of its reasons; another becomes the pending write (R157 to R161).
ERAS is judged as a write is, with the factory page as its content (R157, R162). The tests of each page 0 to 13: its
ranges, its order conditions, and its cross-checks against the other pages (R4, R65, R81, R96, R140, R145, R158, R180
to R182). A non-zero marker word on page 5 that its core leaves unused fails the cross-check, as R182's Validation has it,
though R182's last paragraph has new marker words loaded while the core's count is 0: the model's choice (log 57). Which
reason a page gets that fails several is free (log 15). That the class of an Absent or Own entry of page 1 may be any of 0 to 6 is the
model's choice (log 60). Where in its ack position the ACK stands is free (log 56), and its milliseconds are the model's
rounding (log 9). -/
def Obligations.LoadAndEraseAreJudged : Prop :=
  (∀ (p : Nat) (page : Nat → Content), p ≤ 13 →
    (rangeOk p (page p) = true ↔ InRange p (page p)) ∧ (orderOk p (page p) = true ↔ InOrder p (page p))
      ∧ ∀ r : RejectReason, r ∈ failedTests p page ↔
          (r = .range ∧ ¬InRange p (page p)) ∨ (r = .order ∧ ¬InOrder p (page p))
            ∨ (r = .crossCheck ∧ ¬CrossChecks p page))
  ∧ ∀ (s : State) (p n : Nat) (data : List Byte) (page : Byte), TakesRequest s → deferredPages s = [] →
    (s.mgmt.transfer = .loading p 3 n → data.length = 14 → ¬(p = 0 ∧ 1 ≤ n) → p ≠ 1 →
        (p ≤ 10 → s.link = false →
          ∃ t, exec (.chnk 3 data) s = .next t ∧ Answered t 0x07 .doneProtected [] ∧ t.mgmt.transfer = .closed
            ∧ t.store.stored = s.store.stored ∧ t.store.mgmtClaim = s.store.mgmtClaim)
        ∧ (p ≤ 10 → s.link = true → s.seq.sup.quiet = false →
            ∃ t, exec (.chnk 3 data) s = .next t ∧ Answered t 0x07 .busy [] ∧ t.mgmt.transfer = .closed
              ∧ t.store.stored = s.store.stored ∧ t.store.mgmtClaim = s.store.mgmtClaim)
        ∧ (10 < p ∨ s.link = true ∧ s.seq.sup.quiet = true →
            ∀ content, content = s.mgmt.buffer.take 48 ++ data ++ s.mgmt.buffer.drop 62 →
            (failedTests p (fun q => if q = p then content else willHold s q) = [] →
              ∃ t, exec (.chnk 3 data) s = .next t ∧ t.mgmt.mailbox = .executing ∧ t.mgmt.buffer = content
                ∧ t.mgmt.transfer = .writing p n ∧ t.mgmt.idle = .stopped
                ∧ t.store = { s.store with mgmtClaim := some (.write p .single) } ∧ t.relay = s.relay ∧ t.seq = s.seq)
            ∧ (failedTests p (fun q => if q = p then content else willHold s q) ≠ [] →
              ∃ t, exec (.chnk 3 data) s = .next t
                ∧ (∃ r ∈ failedTests p (fun q => if q = p then content else willHold s q),
                    Answered t 0x07 (.rejected r) [] ∧ t.mgmt.lastReject = some r)
                ∧ latched t .pageRejected = true ∧ t.mgmt.transfer = .closed
                ∧ t.store.stored = s.store.stored ∧ t.store.mgmtClaim = s.store.mgmtClaim ∧ t.seq = s.seq)))
    ∧ (∀ content, content = s.mgmt.buffer.take 48 ++ data ++ s.mgmt.buffer.drop 62 → data.length = 14 →
        s.link = true → s.seq.sup.quiet = true →
        (s.mgmt.transfer = .loading 0 3 n → 1 ≤ n →
          (rangeOk 0 content = true → orderOk 0 content = true →
            ∃ t, exec (.chnk 3 data) s = .next t ∧ Answered t 0x07 .done [3] ∧ t.mgmt.transfer = .loading 1 0 (n - 1)
              ∧ t.mgmt.idle = .running (s.now + 10000)
              ∧ t.store = { s.store with heldIdentity := some content } ∧ t.seq = s.seq)
          ∧ (rangeOk 0 content = false ∨ orderOk 0 content = false →
            ∃ t, exec (.chnk 3 data) s = .next t
              ∧ (∃ r, (r = .range ∧ rangeOk 0 content = false ∨ r = .order ∧ orderOk 0 content = false)
                  ∧ Answered t 0x07 (.rejected r) [] ∧ t.mgmt.lastReject = some r)
              ∧ latched t .pageRejected = true ∧ t.mgmt.transfer = .closed
              ∧ t.store = { s.store with heldIdentity := none } ∧ t.seq = s.seq))
        ∧ (s.mgmt.transfer = .loading 1 3 n →
          ∀ pages : Nat → Content,
            pages = (fun q => if q = 1 then content
                              else if q = 0 then s.store.heldIdentity.getD (willHold s 0) else willHold s q) →
          (failedTests 1 pages = [] →
            ∃ t, exec (.chnk 3 data) s = .next t ∧ t.mgmt.mailbox = .executing ∧ t.mgmt.buffer = content
              ∧ t.mgmt.transfer = .writing 1 n ∧ t.mgmt.idle = .stopped ∧ t.relay = s.relay ∧ t.seq = s.seq
              ∧ t.store =
                  { s.store with
                    mgmtClaim := some (if s.store.heldIdentity.isSome then .write 0 .first else .write 1 .single) })
          ∧ (failedTests 1 pages ≠ [] →
            ∃ t, exec (.chnk 3 data) s = .next t
              ∧ (∃ r ∈ failedTests 1 pages, Answered t 0x07 (.rejected r) [] ∧ t.mgmt.lastReject = some r)
              ∧ latched t .pageRejected = true ∧ t.mgmt.transfer = .closed
              ∧ t.store = { s.store with heldIdentity := none } ∧ t.seq = s.seq)))
    ∧ (13 < page.toNat → ∃ t, exec (.eras page) s = .next t ∧ OnlyAnswers s t s.mgmt ∧ Answered t 0x09 .outOfRange [])
    ∧ (page.toNat ≤ 10 → s.link = false →
        ∃ t, exec (.eras page) s = .next t ∧ OnlyAnswers s t s.mgmt ∧ Answered t 0x09 .doneProtected [])
    ∧ (page.toNat ≤ 10 → s.link = true → s.seq.sup.quiet = false →
        ∃ t, exec (.eras page) s = .next t ∧ OnlyAnswers s t s.mgmt ∧ Answered t 0x09 .busy [])
    ∧ (page.toNat ≤ 13 → 10 < page.toNat ∨ s.link = true ∧ s.seq.sup.quiet = true →
        failedTests page.toNat
            (fun q => if q = page.toNat then (factoryOf s page.toNat).content else willHold s q) = [] →
        ∃ t, exec (.eras page) s = .next t ∧ t.mgmt = { s.mgmt with mailbox := .executing }
          ∧ t.store = { s.store with mgmtClaim := some (.erase page.toNat) } ∧ t.relay = s.relay ∧ t.seq = s.seq)
    ∧ (page.toNat ≤ 13 → 10 < page.toNat ∨ s.link = true ∧ s.seq.sup.quiet = true →
        ∀ pages : Nat → Content,
          pages = (fun q => if q = page.toNat then (factoryOf s page.toNat).content else willHold s q) →
        failedTests page.toNat pages ≠ [] →
        ∃ t, exec (.eras page) s = .next t
          ∧ (∃ r ∈ failedTests page.toNat pages, Answered t 0x09 (.rejected r) [] ∧ t.mgmt.lastReject = some r)
          ∧ latched t .pageRejected = true ∧ t.mgmt.transfer = s.mgmt.transfer ∧ t.store = s.store ∧ t.seq = s.seq)

/-- SRST and FRST are answered Done and wait for their response to be sent; then Soft Restart takes effect, and
Full Restart is armed (R175, R176). A field try on the line is cut short as no ack: an Output Set's frame is answered
under R37, and the addressed station's ack position goes on as traffic for a time that is free (R138; log 40). A Frost
queue try is cut short like any other, as R138 has it, though R137 has one whose entry is dropped run to its end: the
model's reading (log 45). Where in its ack position the ACK stands is free (log 56), and its milliseconds are the model's
rounding (log 9). -/
def Obligations.RestartsWaitForTheirResponse : Prop :=
  ∀ (s : State) (x : Try) (e : UtqEntry) (rest : List UtqEntry),
    (TakesRequest s →
      (∃ t, exec .srst s = .next t ∧ OnlyAnswers s t { s.mgmt with restart := .softAsked } ∧ Answered t 0x0D .done [])
      ∧ (∃ t, exec .frst s = .next t ∧ OnlyAnswers s t { s.mgmt with restart := .fullAsked } ∧ Answered t 0x0E .done []))
    ∧ (s.powered = true → s.up.trying = some x → x.onLine = true → x.orphan = false → x.owner = .utq → x.frame.kind = .mrs →
        s.relay.utq = e :: rest → e.renewed = false →
        (s.mgmt.restart = .fullAsked →
          ∃ t, exec (.frameSent .upstream) s = .next t ∧ t.mgmt = { s.mgmt with restart := .fullArmed } ∧ t.seq = s.seq)
        ∧ (s.mgmt.restart = .softAsked → s.field.trying = none →
          ∃ t, exec (.frameSent .upstream) s = .next t
            ∧ t.relay = { record := none, utq := [], lastRefusal := none, report := .running (s.now + 2000) }
            ∧ t.arb = { s.arb with relaySlot := none, frostQ := [] }
            ∧ t.mgmt =
                { s.mgmt with
                  mailbox := .empty, wait := .nothing, transfer := .closed, idle := .stopped, events := 0, restart := .nothing }
            ∧ t.up.line = .idle ∧ t.field.line = .idle ∧ t.up.trying = none ∧ t.field.trying = none
            ∧ (s.field.line = .stuck → t.field.gap = .held ∧ t.field.dominant = .running (s.now + 1000))
            ∧ (s.field.gap = .held → t.field.gap = .held)
            ∧ (s.field.line = .receiving → s.field.gap = .busy →
                t.field.gap = .running (s.now + 5 + Config.freeTraffic s.freeIndex true) ∧ canReceive t.field = false)
            ∧ t.seq = s.seq ∧ t.chans = s.chans ∧ t.demand = s.demand ∧ t.lock = s.lock
            ∧ t.store = { s.store with heldIdentity := none })
        ∧ (s.mgmt.restart = .softAsked → ∀ y, s.field.trying = some y → y.onLine = true →
          s.field.line = .transmitting → s.field.gap = .busy →
          ∃ t, exec (.frameSent .upstream) s = .next t
            ∧ t.field.line = .idle ∧ t.field.trying = none ∧ mayTransmit t.field = false
            ∧ (y.hold.isRunning = true → t.field.gap = .held)
            ∧ (y.hold.isRunning = false → y.frame.needsAck = true →
                t.field.gap = .running (s.now + 5 + Config.freeTraffic s.freeIndex true))
            ∧ (y.hold.isRunning = false → y.frame.needsAck = false → t.field.gap = .running (s.now + 5))
            ∧ (y.owner = .sequencer → y.orphan = false → ∀ z, s.arb.inFlight = some z →
                (s.arb.pending.isSome = true → t.arb.inFlight = none)
                ∧ (s.arb.pending = none → z.tries + 1 < 3 → t.arb.inFlight = some { z with tries := z.tries + 1 }))))

/-! ### The table store -/

/-- STORE_PORT_GRANT: record writes first, the lowest page first, then the sweep, then management; a write takes
its content now, and the operation runs for its port time of 2 or 25 ms (R160). -/
def Obligations.StoreGrantFollowsTheOrder : Prop :=
  ∀ (s : State), s.powered = true → s.store.op = none →
    (∀ p rest, s.store.pendingRec = p :: rest →
      exec .storePortGrant s =
        .next
          (renewOrder
            { s with
              store :=
                { s.store with
                  op := some (.recordWrite p (pageOf s p) (s.mgmt.wait != .nothing)), portTimer := .running (s.now + 25)
                  pendingRec := rest } }))
    ∧ (s.store.pendingRec = [] → s.store.sweepClaim = some .check →
        exec .storePortGrant s =
          .next
            (renewOrder
              { s with
                store :=
                  { s.store with
                    op := some (.check s.store.sweepPos), portTimer := .running (s.now + 2), sweepClaim := none } }))
    ∧ (s.store.pendingRec = [] → s.store.sweepClaim = some .repair →
        exec .storePortGrant s =
          .next
            (renewOrder
              { s with
                store :=
                  { s.store with
                    op := some (.repair s.store.sweepPos (pageOf s s.store.sweepPos)), portTimer := .running (s.now + 25)
                    sweepClaim := none } }))
    ∧ (s.store.pendingRec = [] → s.store.sweepClaim = none → ∀ c, s.store.mgmtClaim = some c →
        ∃ t, exec .storePortGrant s = .next t ∧ t = { s with store := t.store, order := t.order, freeIndex := t.freeIndex }
          ∧ t.store =
              { s.store with
                mgmtClaim := none
                portTimer := .running (s.now + (match c with | .fetch _ => 2 | .erase _ | .write _ _ => 25))
                op :=
                  some
                    (match c with
                      | .fetch p => .fetch p
                      | .erase p => .erase p
                      | .write p .first => .write p (s.store.heldIdentity.getD s.mgmt.buffer) .first
                      | .write p part => .write p s.mgmt.buffer part) })

/-- No operation completes before its port time is over (R160; log 3). The completions that write a stored page leave
it valid with the content taken at the start (R155, R160, R164); a record write answers the RLCK or CLRH that waited
for it (R118, R123). FETCH_READ_COMPLETE: the page read is in the buffer with its flag, chunk 0 is answered, and
chunk 1 is the next (R155, R171). -/
def Obligations.StoreCompletions : Prop :=
  (∀ (s : State), s.powered = true → s.store.portTimer.due s.now = false →
    ∀ c ∈ [Instr.recordWriteComplete, .managementWriteComplete, .eraseComplete, .fetchReadComplete, .checkStepComplete,
        .repairWriteComplete], exec c s = .next (renewOrder s))
  ∧ ∀ (s : State) (p q c n : Nat) (content : Content), s.powered = true → p < 21 → s.store.portTimer.due s.now = true →
    (∀ answers, s.store.op = some (.recordWrite p content answers) →
      ∃ t, exec .recordWriteComplete s = .next t
        ∧ storedOf t p = { content := content, check := checkWord content } ∧ (∀ x, x < 21 → x ≠ p → storedOf t x = storedOf s x)
        ∧ t.store.op = none ∧ t.seq = s.seq
        ∧ (answers = true → s.mgmt.wait = .rlck → p = 14 → UtqForm s.relay.utq →
            Answered t 0x0A .done [] ∧ t.mgmt.wait = .nothing)
        ∧ (answers = true → s.mgmt.wait = .clrh [p] → UtqForm s.relay.utq →
            Answered t 0x0B .done [] ∧ t.mgmt.wait = .nothing)
        ∧ (answers = false ∨ s.mgmt.wait = .nothing → t.mgmt = s.mgmt ∧ t.relay = s.relay))
    ∧ (s.store.op = some (.repair p content) →
        ∃ t, exec .repairWriteComplete s = .next t
          ∧ storedOf t p = { content := content, check := checkWord content } ∧ (∀ x, x < 21 → x ≠ p → storedOf t x = storedOf s x)
          ∧ t.store.op = none ∧ t.store.sweepTimer = .running (s.now + 5000)
          ∧ t.store.sweepPos = (if s.store.sweepPos = 20 then 0 else s.store.sweepPos + 1)
          ∧ t.seq = s.seq ∧ t.mgmt = s.mgmt ∧ t.store.copies = s.store.copies)
    ∧ (s.store.op = some (.fetch p) → s.mgmt.transfer = .fetching q c n →
        UtqForm s.relay.utq →
        ∃ t, exec .fetchReadComplete s = .next t
          ∧ t.mgmt.transfer = .fetching q 1 n ∧ t.mgmt.idle = .running (s.now + 10000)
          ∧ t.mgmt.buffer =
              (if (storedOf s p).ok then (storedOf s p).content
               else if p < 14 then (factoryOf s p).content else pageOf s p)
          ∧ t.mgmt.fetchFactory = (if p < 14 then !(storedOf s p).ok else decide (19 ≤ p))
          ∧ Answered t 0x07 .done (byteOf (if t.mgmt.fetchFactory then 128 else 0) :: slice t.mgmt.buffer 0 16)
          ∧ t.store.op = none ∧ t.seq = s.seq)

/-- MANAGEMENT_WRITE_COMPLETE and ERASE_COMPLETE of a page: the page is stored or left invalid, the answer is
Done, and the working copy is installed, or deferred for a safety page outside STBY, LOCK and FLCK (R161, R162). The
first write of a pair asks for the second, and the second installs or defers both pages together (R159). A replaced
binding page rebinds the channels whose bindings differ, keeping their times (R16); a replaced Schedule lowers the
failure count to its recycle limit and works out the effective rate (R31, R61); replaced Limits clamp a Live or Stale
target again (R25). -/
def Obligations.WriteInstallsOrDefers : Prop :=
  ∀ (s : State) (p : Nat) (content : Content), s.powered = true → p < 14 → UtqForm s.relay.utq →
    s.store.portTimer.due s.now = true →
    (s.store.op = some (.write p content .single) →
      ∃ t, exec .managementWriteComplete s = .next t
        ∧ storedOf t p = { content := content, check := checkWord content } ∧ (∀ q, q < 21 → q ≠ p → storedOf t q = storedOf s q)
        ∧ t.store.op = none
        ∧ (p ≤ 10 → s.seq.sup.quiet = false →
            copyOf t p = { copyOf s p with deferred := true } ∧ t.seq = s.seq ∧ Answered t 0x07 .done [3])
        ∧ (10 < p ∨ s.seq.sup.quiet = true → deferredPages s = [] →
            copyOf t p = { content := content, check := checkWord content, source := .installer, deferred := false }))
    ∧ (s.store.op = some (.erase p) →
      ∃ t, exec .eraseComplete s = .next t
        ∧ (storedOf t p).ok = false ∧ (∀ q, q < 21 → q ≠ p → storedOf t q = storedOf s q) ∧ t.store.op = none
        ∧ (p ≤ 10 → s.seq.sup.quiet = false →
            copyOf t p = { copyOf s p with deferred := true } ∧ t.seq = s.seq ∧ Answered t 0x09 .done [])
        ∧ (10 < p ∨ s.seq.sup.quiet = true → deferredPages s = [] →
            copyOf t p =
              { content := (factoryOf s p).content, check := checkWord (factoryOf s p).content, source := .factory
                deferred := false }))
    ∧ (s.store.op = some (.write p content .first) →
      ∃ t, exec .managementWriteComplete s = .next t
        ∧ storedOf t p = { content := content, check := checkWord content } ∧ (∀ q, q < 21 → q ≠ p → storedOf t q = storedOf s q)
        ∧ t.store.op = none ∧ t.store.mgmtClaim = some (.write 1 .second) ∧ t.store.copies = s.store.copies
        ∧ t.mgmt = s.mgmt ∧ t.relay = s.relay ∧ t.seq = s.seq)
    ∧ (s.store.op = some (.write 1 content .second) →
      ∃ t, exec .managementWriteComplete s = .next t
        ∧ storedOf t 1 = { content := content, check := checkWord content } ∧ (∀ q, q < 21 → q ≠ 1 → storedOf t q = storedOf s q)
        ∧ t.store.op = none ∧ t.store.heldIdentity = none
        ∧ (s.seq.sup.quiet = false →
            copyOf t 0 = { copyOf s 0 with deferred := true } ∧ copyOf t 1 = { copyOf s 1 with deferred := true }
              ∧ t.seq = s.seq ∧ Answered t 0x07 .done [3])
        ∧ (s.seq.sup.quiet = true → deferredPages s = [] →
            copyOf t 1 = { content := content, check := checkWord content, source := .installer, deferred := false }
              ∧ ((storedOf s 0).ok = true →
                  copyOf t 0 =
                    { content := (storedOf s 0).content, check := checkWord (storedOf s 0).content, source := .installer
                      deferred := false })))
    ∧ (s.store.op = some (.write p content .single) → s.seq.sup.quiet = true → deferredPages s = [] →
        (s.seq.sup = .stby → requests s = false) →
      ∃ t, exec .managementWriteComplete s = .next t
        ∧ (2 ≤ p → p ≤ 5 → ∀ k : Fin 14,
            if bindingBytes (pageOf t) k.val = bindingBytes (pageOf s) k.val then chan t k = chan s k else Rebound s t k)
        ∧ (p = 8 → content ≠ pageOf s 8 →
            t.seq.failCount =
                (if (schedule t).recycleLimit < s.seq.failCount then (schedule t).recycleLimit else s.seq.failCount)
              ∧ t.demand.rate =
                  clampNat (schedule t).lowFire (schedule t).highFire
                    (if s.demand.heatCall then (if s.demand.state = .live then s.demand.level.getD 0 else 0)
                     else (schedule t).lowFire))
        ∧ (p = 9 → content ≠ pageOf s 9 →
            t.demand.target =
              if s.demand.state = .absent then s.demand.target
              else s.demand.target.map
                (fun x =>
                  if x < (limits t).targetMin then (limits t).targetMin
                  else if (limits t).targetMax < x then (limits t).targetMax else x)))

/-- SWEEP_TIMER_EXPIRY and CHECK_STEP_COMPLETE (R163 to R165). The check becomes the sweep's claim; a sound page
moves the position on; a sound copy of an invalid installer page is repaired from the copy. An unsound copy is loaded
again from the store, or from the factory page, with Store Fault latched; for a safety page that signal ends an
attempt, with FRC opened (R55): no attempt begun before this millisecond is left without an outcome. For pages 0, 1,
6, 7 and 10 the outcome is Not Counted (Store Fault); the readers of the others may decide first (log 1). A reloaded page
of bindings rebinds every channel on it, changed or not, one with its marker words on page 5 as a channel of that page
too (R16, R182). A record page is repaired from whichever of copy and store is sound, and both unsound
start afresh, page 14 as Record Lost (R116), pages 15 to 18 with four empty slots; that every byte of an empty slot is 0
is the model's reading (log 38). An invalid factory or fixed page sets the factory fault and leads to FLCK, but from
LOCK (R120). -/
def Obligations.SweepChecksAndRepairs : Prop :=
  ∀ (s : State) (p : Nat), s.powered = true →
    (s.store.sweepTimer.due s.now = true →
      exec .sweepTimerExpiry s =
        .next (renewOrder { s with store := { s.store with sweepTimer := .stopped, sweepClaim := some .check } }))
    ∧ (s.store.op = some (.check p) → s.store.portTimer.due s.now = true →
        p < 14 → (factoryOf s p).ok = true → (copyOf s p).ok = true →
        ((storedOf s p).ok = true ∨ (copyOf s p).source ≠ .installer →
          ∃ t, exec .checkStepComplete s = .next t
            ∧ t.store =
                { s.store with
                  op := none, portTimer := .stopped, sweepPos := if s.store.sweepPos = 20 then 0 else s.store.sweepPos + 1
                  sweepTimer := .running (s.now + 5000) }
            ∧ t = { s with store := t.store, order := t.order, freeIndex := t.freeIndex })
        ∧ ((storedOf s p).ok = false → (copyOf s p).source = .installer →
          ∃ t, exec .checkStepComplete s = .next t
            ∧ t.store = { s.store with op := none, portTimer := .stopped, sweepClaim := some .repair }
            ∧ latched t .storeFault = true ∧ t.seq = s.seq))
    ∧ (s.store.op = some (.check p) → s.store.portTimer.due s.now = true →
        p < 14 → (factoryOf s p).ok = true → (copyOf s p).ok = false →
        deferredPages s = [] →
        ∃ t, exec .checkStepComplete s = .next t
          ∧ copyOf t p =
              (if (storedOf s p).ok then
                 { content := (storedOf s p).content, check := checkWord (storedOf s p).content, source := .installer
                   deferred := false }
               else
                 { content := (factoryOf s p).content, check := checkWord (factoryOf s p).content, source := .factory
                   deferred := false })
          ∧ latched t .storeFault = true ∧ t.store.stored = s.store.stored ∧ t.store.op = none
          ∧ t.store.sweepPos = (if s.store.sweepPos = 20 then 0 else s.store.sweepPos + 1)
          ∧ t.store.sweepTimer = .running (s.now + 5000)
          ∧ (∀ k : Fin 14,
              if corePage k.val = p ∨ (markerPlace k.val).1 = p then Rebound s t k else chan t k = chan s k)
          ∧ ∀ a, s.seq.attempt = some a → a.outcome = none → p ≤ 10 →
              (s.seq.sup.fuel = true → t.seq.frc = false)
              ∧ (s.seq.sup.undecided = true → ∀ b, t.seq.attempt = some b → b.outcome.isSome = true ∨ b.start = s.now)
              ∧ (p ∈ [0, 1, 6, 7, 10] → 0 < (schedule s).postMin → s.seq.sup = .purg ∨ s.seq.sup.fuel = true →
                  Decided s a (.notCounted .storeFault) t)
              ∧ (p ∈ [0, 1, 6, 7, 10] → s.seq.sup = .chek ∨ s.seq.sup = .cond →
                  (requests s = true → overheated s = false ∧ chekMet s = false) →
                  pageOf t (slotPage (summarySlot s)) =
                      splice (pageOf s (slotPage (summarySlot s))) (slotOffset (summarySlot s))
                        (encodeSummary (summaryOf a (.notCounted .storeFault) s.now))
                    ∧ (requests s = false → t.seq.sup = .stby ∧ t.seq.attempt = none)
                    ∧ (requests s = true → BeginsAttempt s t)))
    ∧ (s.store.op = some (.check p) → s.store.portTimer.due s.now = true → 14 ≤ p → p < 19 →
        ∃ t, exec .checkStepComplete s = .next t ∧ t.store.op = none ∧ t.seq = s.seq
          ∧ t.store.sweepPos = (if s.store.sweepPos = 20 then 0 else s.store.sweepPos + 1)
          ∧ ((copyOf s p).ok = true → (storedOf s p).ok = true → t.store.copies = s.store.copies ∧ t.mgmt = s.mgmt)
          ∧ ((copyOf s p).ok = true → (storedOf s p).ok = false →
              p ∈ t.store.pendingRec ∧ latched t .storeFault = true ∧ t.store.copies = s.store.copies)
          ∧ ((copyOf s p).ok = false → (storedOf s p).ok = true →
              copyOf t p =
                  { content := (storedOf s p).content, check := checkWord (storedOf s p).content, source := .record
                    deferred := false }
                ∧ latched t .storeFault = true)
          ∧ ((copyOf s p).ok = false → (storedOf s p).ok = false →
              latched t .storeFault = true ∧ p ∈ t.store.pendingRec
                ∧ (p = 14 → lockPage t = LockPage.recordLost ∧ occupiedSlots t = []
                    ∧ (∀ q ∈ [14, 15, 16, 17, 18], q ∈ t.store.pendingRec) ∧ latched t .lockoutEntered = true)
                ∧ (p ≠ 14 → pageOf t p = zeroContent ∧ lockPage t = lockPage s)))
    ∧ (s.store.op = some (.check p) → s.store.portTimer.due s.now = true →
        (p < 14 ∧ (factoryOf s p).ok = false ∧ (copyOf s p).ok = true
            ∧ ((storedOf s p).ok = true ∨ (copyOf s p).source ≠ .installer))
          ∨ (19 ≤ p ∧ p ≤ 20 ∧ (storedOf s p).ok = false) →
        deferredPages s = [] →
        ∃ t, exec .checkStepComplete s = .next t
          ∧ t.lock.factoryFault = true ∧ latched t .storeFault = true ∧ t.store.op = none
          ∧ t.store.sweepPos = (if s.store.sweepPos = 20 then 0 else s.store.sweepPos + 1)
          ∧ (s.seq.sup = .lock ∨ s.seq.sup = .flck → t.seq = s.seq)
          ∧ (s.seq.sup = .stby ∨ s.seq.sup = .rcyw ∨ s.seq.sup = .cold ∨ s.seq.sup = .post →
              t.seq.sup = .flck ∧ t.seq.lkl = .flashing ∧ t.seq.frc = false ∧ t.seq.attempt = none ∧ t.seq.timers = {}
                ∧ lockPage t = lockPage s)
          ∧ (∀ a, s.seq.attempt = some a → a.outcome = none → s.seq.sup.undecided = true →
              Decided s a (.lockout .factoryFault) t ∧ t.seq.sup = .flck ∧ t.seq.lkl = .flashing))
    ∧ (s.store.op = some (.check p) → s.store.portTimer.due s.now = true →
        19 ≤ p → p ≤ 20 → (storedOf s p).ok = true →
        ∃ t, exec .checkStepComplete s = .next t ∧ t.seq = s.seq ∧ t.store.op = none
          ∧ t.store.sweepPos = (if s.store.sweepPos = 20 then 0 else s.store.sweepPos + 1)
          ∧ ((copyOf s p).ok = true → t.store.copies = s.store.copies ∧ t.mgmt = s.mgmt)
          ∧ ((copyOf s p).ok = false → (pageOf t p) = (storedOf s p).content ∧ latched t .storeFault = true))

/-! ### What every command keeps -/

/-- FRC, LKL and the Attempt Record follow the supervisor state through every step (R34, R39, R40). -/
def Obligations.HardLinesFollowTheState : Prop :=
  ∀ (s t : State), HardLines s → step s = .next t → HardLines t

/-- LKL is steady in LOCK, flashes in FLCK and is off in every other state, from the step that changes the state;
In Lockout holds in LOCK and FLCK and Fuel Released while FRC is closed (R34). -/
def Obligations.LampShowsTheLockout : Prop :=
  ∀ (s t : State), HardLines s → step s = .next t →
    (t.seq.lkl = .steady ↔ t.seq.sup = .lock) ∧ (t.seq.lkl = .flashing ↔ t.seq.sup = .flck)
      ∧ (t.seq.lkl = .off ↔ t.seq.sup ≠ .lock ∧ t.seq.sup ≠ .flck)
      ∧ (conditions t).testBit 1 = (t.seq.sup == .lock || t.seq.sup == .flck) ∧ (conditions t).testBit 0 = t.seq.frc

/-- Through every step: a relay try whose frame was answered at its deadline is on the line, since the model does not
send such a frame again where it loses arbitration (log 21; R131, R150); with that, no valve-open
set is in the Sequencer slot or waits to be sent outside IGNT, WARM and FIRE (R38); and the current Output Set is the
one the table of R35 gives for the state, the line heater, the effective rate and the Schedule. -/
def Obligations.ValveStaysGuarded : Prop :=
  ∀ (s t : State), step s = .next t →
    (LateSlot s → LateSlot t)
    ∧ (LateSlot s → ValveGuard s → ValveGuard t)
    ∧ (s.seq.current = setOf s → t.seq.current = setOf t)

/-- A Set Outputs frame of the Sequencer that a grant puts on the field line has its valve closed unless the
state is IGNT, WARM or FIRE (R38). -/
def Obligations.NoValveOpenFrameIsGranted : Prop :=
  ∀ (s t : State) (x : Try), ValveGuard s → s.powered = true → mayTransmit s.field = true → exec .arbiterGrant s = .next t →
    t.field.trying = some x → x.owner = .sequencer → x.orphan = false →
    (byteAt x.frame.payload 3).testBit 3 = true → t.seq.sup.fuel = true

/-- The queues keep their form through every step: the queue upstream (R151, R152), the Frost queue with one
entry per station and at most its head in flight (R105), the pending record writes, ascending and of pages 14
to 18 (R115, R160). -/
def Obligations.QueuesKeepTheirForm : Prop :=
  ∀ (s t : State), step s = .next t →
    (UtqForm s.relay.utq → UtqForm t.relay.utq)
    ∧ (FrostForm s.arb.frostQ → FrostForm t.arb.frostQ)
    ∧ (PendingForm s.store.pendingRec → PendingForm t.store.pendingRec)

/-- Where a value and a filtered value are present they lie between the clamps of the channel's binding, through
every step (R12). -/
def Obligations.ReadingsStayClamped : Prop := ∀ (s t : State), ClampedChannels s → step s = .next t → ClampedChannels t

/-- No safety copy waits deferred while the part rests in STBY, LOCK or FLCK (R161). -/
def Obligations.QuietStatesHaveNoDeferredCopy : Prop :=
  ∀ (s t : State), QuietInstalled s → step s = .next t → QuietInstalled t

/-- Powered time, the supply, the link, the stored and the factory pages and the queue change by the commands
whose rules say so, and by no other. Among those that leave them alone is FULL_RESTART_EFFECT: that powered time runs
on there is the model's choice (log 8). -/
def Obligations.FixedPartIsKept : Prop :=
  ∀ (s t : State) (c : Instr),
    c ≠ .powerUp → c ≠ .powerLoss → (∀ b ∈ [true, false], c ≠ .commissioningLinkChange b) → c ≠ .recordWriteComplete →
    c ≠ .managementWriteComplete → c ≠ .eraseComplete → c ≠ .repairWriteComplete →
    exec c s = .next t → fixedPart t = fixedPart s


/-- A block changes by the commands whose rules reach it, and by no other: the copies of the settings pages, the
channels, the Demand Record, the cycle master, the Last Refusal record, the alert mask, the mailbox and the
transfer, the store port. -/
def Obligations.BlocksChangeByTheirCommands : Prop :=
  ∀ (s t : State) (c : Instr), resetsAll c = false → exec c s = .next t →
    (installsCopy c = false → deferredPages s = [] → settings t = settings s)
    ∧ (reachesChannels c = false → settings t = settings s → t.chans = s.chans)
    ∧ (reachesDemand c = false → settings t = settings s →
        t.demand.state = s.demand.state ∧ t.demand.level = s.demand.level ∧ t.demand.target = s.demand.target
          ∧ t.demand.timer = s.demand.timer)
    ∧ (reachesCycle c = false → t.cyc = s.cyc)
    ∧ (reachesRefusal c = false → t.relay.lastRefusal = s.relay.lastRefusal)
    ∧ ((∀ mask, c ≠ .amsk mask) → t.mgmt.mask = s.mgmt.mask)
    ∧ (reachesMailbox c = false →
        t.mgmt.mailbox = s.mgmt.mailbox ∧ t.mgmt.transfer = s.mgmt.transfer ∧ t.mgmt.buffer = s.mgmt.buffer
          ∧ t.mgmt.restart = s.mgmt.restart ∧ t.mgmt.lastReject = s.mgmt.lastReject)
    ∧ (reachesStorePort c = false →
        t.store.op = s.store.op ∧ t.store.portTimer = s.store.portTimer ∧ t.store.sweepPos = s.store.sweepPos
          ∧ (c ≠ .sweepTimerExpiry → t.store.sweepTimer = s.store.sweepTimer ∧ t.store.sweepClaim = s.store.sweepClaim))
end

