-- ==== Sys2Proof/Laws/State.lean ====
section
/-! SUPPORT. One lemma per field per update: what each small update of Ops.lean and Flags.lean leaves in each
field of the state, so that no proof unfolds a record update. -/

namespace Sys2Proof.Machine

variable (s : State)

/-! ### onSeq -/

@[simp] theorem now_onSeq (f : Sequencer → Sequencer) : (onSeq f s).now = s.now := rfl
@[simp] theorem powered_onSeq (f : Sequencer → Sequencer) : (onSeq f s).powered = s.powered := rfl
@[simp] theorem link_onSeq (f : Sequencer → Sequencer) : (onSeq f s).link = s.link := rfl
@[simp] theorem up_onSeq (f : Sequencer → Sequencer) : (onSeq f s).up = s.up := rfl
@[simp] theorem field_onSeq (f : Sequencer → Sequencer) : (onSeq f s).field = s.field := rfl
@[simp] theorem cyc_onSeq (f : Sequencer → Sequencer) : (onSeq f s).cyc = s.cyc := rfl
@[simp] theorem arb_onSeq (f : Sequencer → Sequencer) : (onSeq f s).arb = s.arb := rfl
@[simp] theorem relay_onSeq (f : Sequencer → Sequencer) : (onSeq f s).relay = s.relay := rfl
@[simp] theorem chans_onSeq (f : Sequencer → Sequencer) : (onSeq f s).chans = s.chans := rfl
@[simp] theorem demand_onSeq (f : Sequencer → Sequencer) : (onSeq f s).demand = s.demand := rfl
@[simp] theorem seq_onSeq (f : Sequencer → Sequencer) : (onSeq f s).seq = f s.seq := rfl
@[simp] theorem flue_onSeq (f : Sequencer → Sequencer) : (onSeq f s).flue = s.flue := rfl
@[simp] theorem frost_onSeq (f : Sequencer → Sequencer) : (onSeq f s).frost = s.frost := rfl
@[simp] theorem lock_onSeq (f : Sequencer → Sequencer) : (onSeq f s).lock = s.lock := rfl
@[simp] theorem store_onSeq (f : Sequencer → Sequencer) : (onSeq f s).store = s.store := rfl
@[simp] theorem mgmt_onSeq (f : Sequencer → Sequencer) : (onSeq f s).mgmt = s.mgmt := rfl
@[simp] theorem order_onSeq (f : Sequencer → Sequencer) : (onSeq f s).order = s.order := rfl
@[simp] theorem freeIndex_onSeq (f : Sequencer → Sequencer) : (onSeq f s).freeIndex = s.freeIndex := rfl
@[simp] theorem pending_onSeq (f : Sequencer → Sequencer) : (onSeq f s).pending = s.pending := rfl

/-! ### onTimers -/

@[simp] theorem now_onTimers (f : PhaseTimers → PhaseTimers) : (onTimers f s).now = s.now := rfl
@[simp] theorem powered_onTimers (f : PhaseTimers → PhaseTimers) : (onTimers f s).powered = s.powered := rfl
@[simp] theorem link_onTimers (f : PhaseTimers → PhaseTimers) : (onTimers f s).link = s.link := rfl
@[simp] theorem up_onTimers (f : PhaseTimers → PhaseTimers) : (onTimers f s).up = s.up := rfl
@[simp] theorem field_onTimers (f : PhaseTimers → PhaseTimers) : (onTimers f s).field = s.field := rfl
@[simp] theorem cyc_onTimers (f : PhaseTimers → PhaseTimers) : (onTimers f s).cyc = s.cyc := rfl
@[simp] theorem arb_onTimers (f : PhaseTimers → PhaseTimers) : (onTimers f s).arb = s.arb := rfl
@[simp] theorem relay_onTimers (f : PhaseTimers → PhaseTimers) : (onTimers f s).relay = s.relay := rfl
@[simp] theorem chans_onTimers (f : PhaseTimers → PhaseTimers) : (onTimers f s).chans = s.chans := rfl
@[simp] theorem demand_onTimers (f : PhaseTimers → PhaseTimers) : (onTimers f s).demand = s.demand := rfl
@[simp] theorem seq_onTimers (f : PhaseTimers → PhaseTimers) :
    (onTimers f s).seq = { s.seq with timers := f s.seq.timers } := rfl
@[simp] theorem flue_onTimers (f : PhaseTimers → PhaseTimers) : (onTimers f s).flue = s.flue := rfl
@[simp] theorem frost_onTimers (f : PhaseTimers → PhaseTimers) : (onTimers f s).frost = s.frost := rfl
@[simp] theorem lock_onTimers (f : PhaseTimers → PhaseTimers) : (onTimers f s).lock = s.lock := rfl
@[simp] theorem store_onTimers (f : PhaseTimers → PhaseTimers) : (onTimers f s).store = s.store := rfl
@[simp] theorem mgmt_onTimers (f : PhaseTimers → PhaseTimers) : (onTimers f s).mgmt = s.mgmt := rfl
@[simp] theorem order_onTimers (f : PhaseTimers → PhaseTimers) : (onTimers f s).order = s.order := rfl
@[simp] theorem freeIndex_onTimers (f : PhaseTimers → PhaseTimers) : (onTimers f s).freeIndex = s.freeIndex := rfl
@[simp] theorem pending_onTimers (f : PhaseTimers → PhaseTimers) : (onTimers f s).pending = s.pending := rfl

/-! ### onAttempt -/

@[simp] theorem now_onAttempt (f : Attempt → Attempt) : (onAttempt f s).now = s.now := rfl
@[simp] theorem powered_onAttempt (f : Attempt → Attempt) : (onAttempt f s).powered = s.powered := rfl
@[simp] theorem link_onAttempt (f : Attempt → Attempt) : (onAttempt f s).link = s.link := rfl
@[simp] theorem up_onAttempt (f : Attempt → Attempt) : (onAttempt f s).up = s.up := rfl
@[simp] theorem field_onAttempt (f : Attempt → Attempt) : (onAttempt f s).field = s.field := rfl
@[simp] theorem cyc_onAttempt (f : Attempt → Attempt) : (onAttempt f s).cyc = s.cyc := rfl
@[simp] theorem arb_onAttempt (f : Attempt → Attempt) : (onAttempt f s).arb = s.arb := rfl
@[simp] theorem relay_onAttempt (f : Attempt → Attempt) : (onAttempt f s).relay = s.relay := rfl
@[simp] theorem chans_onAttempt (f : Attempt → Attempt) : (onAttempt f s).chans = s.chans := rfl
@[simp] theorem demand_onAttempt (f : Attempt → Attempt) : (onAttempt f s).demand = s.demand := rfl
@[simp] theorem seq_onAttempt (f : Attempt → Attempt) :
    (onAttempt f s).seq = { s.seq with attempt := s.seq.attempt.map f } := rfl
@[simp] theorem flue_onAttempt (f : Attempt → Attempt) : (onAttempt f s).flue = s.flue := rfl
@[simp] theorem frost_onAttempt (f : Attempt → Attempt) : (onAttempt f s).frost = s.frost := rfl
@[simp] theorem lock_onAttempt (f : Attempt → Attempt) : (onAttempt f s).lock = s.lock := rfl
@[simp] theorem store_onAttempt (f : Attempt → Attempt) : (onAttempt f s).store = s.store := rfl
@[simp] theorem mgmt_onAttempt (f : Attempt → Attempt) : (onAttempt f s).mgmt = s.mgmt := rfl
@[simp] theorem order_onAttempt (f : Attempt → Attempt) : (onAttempt f s).order = s.order := rfl
@[simp] theorem freeIndex_onAttempt (f : Attempt → Attempt) : (onAttempt f s).freeIndex = s.freeIndex := rfl
@[simp] theorem pending_onAttempt (f : Attempt → Attempt) : (onAttempt f s).pending = s.pending := rfl

/-! ### onFlue -/

@[simp] theorem now_onFlue (f : Flue → Flue) : (onFlue f s).now = s.now := rfl
@[simp] theorem powered_onFlue (f : Flue → Flue) : (onFlue f s).powered = s.powered := rfl
@[simp] theorem link_onFlue (f : Flue → Flue) : (onFlue f s).link = s.link := rfl
@[simp] theorem up_onFlue (f : Flue → Flue) : (onFlue f s).up = s.up := rfl
@[simp] theorem field_onFlue (f : Flue → Flue) : (onFlue f s).field = s.field := rfl
@[simp] theorem cyc_onFlue (f : Flue → Flue) : (onFlue f s).cyc = s.cyc := rfl
@[simp] theorem arb_onFlue (f : Flue → Flue) : (onFlue f s).arb = s.arb := rfl
@[simp] theorem relay_onFlue (f : Flue → Flue) : (onFlue f s).relay = s.relay := rfl
@[simp] theorem chans_onFlue (f : Flue → Flue) : (onFlue f s).chans = s.chans := rfl
@[simp] theorem demand_onFlue (f : Flue → Flue) : (onFlue f s).demand = s.demand := rfl
@[simp] theorem seq_onFlue (f : Flue → Flue) : (onFlue f s).seq = s.seq := rfl
@[simp] theorem flue_onFlue (f : Flue → Flue) : (onFlue f s).flue = f s.flue := rfl
@[simp] theorem frost_onFlue (f : Flue → Flue) : (onFlue f s).frost = s.frost := rfl
@[simp] theorem lock_onFlue (f : Flue → Flue) : (onFlue f s).lock = s.lock := rfl
@[simp] theorem store_onFlue (f : Flue → Flue) : (onFlue f s).store = s.store := rfl
@[simp] theorem mgmt_onFlue (f : Flue → Flue) : (onFlue f s).mgmt = s.mgmt := rfl
@[simp] theorem order_onFlue (f : Flue → Flue) : (onFlue f s).order = s.order := rfl
@[simp] theorem freeIndex_onFlue (f : Flue → Flue) : (onFlue f s).freeIndex = s.freeIndex := rfl
@[simp] theorem pending_onFlue (f : Flue → Flue) : (onFlue f s).pending = s.pending := rfl

/-! ### onDemand -/

@[simp] theorem now_onDemand (f : Demand → Demand) : (onDemand f s).now = s.now := rfl
@[simp] theorem powered_onDemand (f : Demand → Demand) : (onDemand f s).powered = s.powered := rfl
@[simp] theorem link_onDemand (f : Demand → Demand) : (onDemand f s).link = s.link := rfl
@[simp] theorem up_onDemand (f : Demand → Demand) : (onDemand f s).up = s.up := rfl
@[simp] theorem field_onDemand (f : Demand → Demand) : (onDemand f s).field = s.field := rfl
@[simp] theorem cyc_onDemand (f : Demand → Demand) : (onDemand f s).cyc = s.cyc := rfl
@[simp] theorem arb_onDemand (f : Demand → Demand) : (onDemand f s).arb = s.arb := rfl
@[simp] theorem relay_onDemand (f : Demand → Demand) : (onDemand f s).relay = s.relay := rfl
@[simp] theorem chans_onDemand (f : Demand → Demand) : (onDemand f s).chans = s.chans := rfl
@[simp] theorem demand_onDemand (f : Demand → Demand) : (onDemand f s).demand = f s.demand := rfl
@[simp] theorem seq_onDemand (f : Demand → Demand) : (onDemand f s).seq = s.seq := rfl
@[simp] theorem flue_onDemand (f : Demand → Demand) : (onDemand f s).flue = s.flue := rfl
@[simp] theorem frost_onDemand (f : Demand → Demand) : (onDemand f s).frost = s.frost := rfl
@[simp] theorem lock_onDemand (f : Demand → Demand) : (onDemand f s).lock = s.lock := rfl
@[simp] theorem store_onDemand (f : Demand → Demand) : (onDemand f s).store = s.store := rfl
@[simp] theorem mgmt_onDemand (f : Demand → Demand) : (onDemand f s).mgmt = s.mgmt := rfl
@[simp] theorem order_onDemand (f : Demand → Demand) : (onDemand f s).order = s.order := rfl
@[simp] theorem freeIndex_onDemand (f : Demand → Demand) : (onDemand f s).freeIndex = s.freeIndex := rfl
@[simp] theorem pending_onDemand (f : Demand → Demand) : (onDemand f s).pending = s.pending := rfl

/-! ### onArb -/

@[simp] theorem now_onArb (f : Arbiter → Arbiter) : (onArb f s).now = s.now := rfl
@[simp] theorem powered_onArb (f : Arbiter → Arbiter) : (onArb f s).powered = s.powered := rfl
@[simp] theorem link_onArb (f : Arbiter → Arbiter) : (onArb f s).link = s.link := rfl
@[simp] theorem up_onArb (f : Arbiter → Arbiter) : (onArb f s).up = s.up := rfl
@[simp] theorem field_onArb (f : Arbiter → Arbiter) : (onArb f s).field = s.field := rfl
@[simp] theorem cyc_onArb (f : Arbiter → Arbiter) : (onArb f s).cyc = s.cyc := rfl
@[simp] theorem arb_onArb (f : Arbiter → Arbiter) : (onArb f s).arb = f s.arb := rfl
@[simp] theorem relay_onArb (f : Arbiter → Arbiter) : (onArb f s).relay = s.relay := rfl
@[simp] theorem chans_onArb (f : Arbiter → Arbiter) : (onArb f s).chans = s.chans := rfl
@[simp] theorem demand_onArb (f : Arbiter → Arbiter) : (onArb f s).demand = s.demand := rfl
@[simp] theorem seq_onArb (f : Arbiter → Arbiter) : (onArb f s).seq = s.seq := rfl
@[simp] theorem flue_onArb (f : Arbiter → Arbiter) : (onArb f s).flue = s.flue := rfl
@[simp] theorem frost_onArb (f : Arbiter → Arbiter) : (onArb f s).frost = s.frost := rfl
@[simp] theorem lock_onArb (f : Arbiter → Arbiter) : (onArb f s).lock = s.lock := rfl
@[simp] theorem store_onArb (f : Arbiter → Arbiter) : (onArb f s).store = s.store := rfl
@[simp] theorem mgmt_onArb (f : Arbiter → Arbiter) : (onArb f s).mgmt = s.mgmt := rfl
@[simp] theorem order_onArb (f : Arbiter → Arbiter) : (onArb f s).order = s.order := rfl
@[simp] theorem freeIndex_onArb (f : Arbiter → Arbiter) : (onArb f s).freeIndex = s.freeIndex := rfl
@[simp] theorem pending_onArb (f : Arbiter → Arbiter) : (onArb f s).pending = s.pending := rfl

/-! ### onRelay -/

@[simp] theorem now_onRelay (f : Relay → Relay) : (onRelay f s).now = s.now := rfl
@[simp] theorem powered_onRelay (f : Relay → Relay) : (onRelay f s).powered = s.powered := rfl
@[simp] theorem link_onRelay (f : Relay → Relay) : (onRelay f s).link = s.link := rfl
@[simp] theorem up_onRelay (f : Relay → Relay) : (onRelay f s).up = s.up := rfl
@[simp] theorem field_onRelay (f : Relay → Relay) : (onRelay f s).field = s.field := rfl
@[simp] theorem cyc_onRelay (f : Relay → Relay) : (onRelay f s).cyc = s.cyc := rfl
@[simp] theorem arb_onRelay (f : Relay → Relay) : (onRelay f s).arb = s.arb := rfl
@[simp] theorem relay_onRelay (f : Relay → Relay) : (onRelay f s).relay = f s.relay := rfl
@[simp] theorem chans_onRelay (f : Relay → Relay) : (onRelay f s).chans = s.chans := rfl
@[simp] theorem demand_onRelay (f : Relay → Relay) : (onRelay f s).demand = s.demand := rfl
@[simp] theorem seq_onRelay (f : Relay → Relay) : (onRelay f s).seq = s.seq := rfl
@[simp] theorem flue_onRelay (f : Relay → Relay) : (onRelay f s).flue = s.flue := rfl
@[simp] theorem frost_onRelay (f : Relay → Relay) : (onRelay f s).frost = s.frost := rfl
@[simp] theorem lock_onRelay (f : Relay → Relay) : (onRelay f s).lock = s.lock := rfl
@[simp] theorem store_onRelay (f : Relay → Relay) : (onRelay f s).store = s.store := rfl
@[simp] theorem mgmt_onRelay (f : Relay → Relay) : (onRelay f s).mgmt = s.mgmt := rfl
@[simp] theorem order_onRelay (f : Relay → Relay) : (onRelay f s).order = s.order := rfl
@[simp] theorem freeIndex_onRelay (f : Relay → Relay) : (onRelay f s).freeIndex = s.freeIndex := rfl
@[simp] theorem pending_onRelay (f : Relay → Relay) : (onRelay f s).pending = s.pending := rfl

/-! ### onMgmt -/

@[simp] theorem now_onMgmt (f : Mgmt → Mgmt) : (onMgmt f s).now = s.now := rfl
@[simp] theorem powered_onMgmt (f : Mgmt → Mgmt) : (onMgmt f s).powered = s.powered := rfl
@[simp] theorem link_onMgmt (f : Mgmt → Mgmt) : (onMgmt f s).link = s.link := rfl
@[simp] theorem up_onMgmt (f : Mgmt → Mgmt) : (onMgmt f s).up = s.up := rfl
@[simp] theorem field_onMgmt (f : Mgmt → Mgmt) : (onMgmt f s).field = s.field := rfl
@[simp] theorem cyc_onMgmt (f : Mgmt → Mgmt) : (onMgmt f s).cyc = s.cyc := rfl
@[simp] theorem arb_onMgmt (f : Mgmt → Mgmt) : (onMgmt f s).arb = s.arb := rfl
@[simp] theorem relay_onMgmt (f : Mgmt → Mgmt) : (onMgmt f s).relay = s.relay := rfl
@[simp] theorem chans_onMgmt (f : Mgmt → Mgmt) : (onMgmt f s).chans = s.chans := rfl
@[simp] theorem demand_onMgmt (f : Mgmt → Mgmt) : (onMgmt f s).demand = s.demand := rfl
@[simp] theorem seq_onMgmt (f : Mgmt → Mgmt) : (onMgmt f s).seq = s.seq := rfl
@[simp] theorem flue_onMgmt (f : Mgmt → Mgmt) : (onMgmt f s).flue = s.flue := rfl
@[simp] theorem frost_onMgmt (f : Mgmt → Mgmt) : (onMgmt f s).frost = s.frost := rfl
@[simp] theorem lock_onMgmt (f : Mgmt → Mgmt) : (onMgmt f s).lock = s.lock := rfl
@[simp] theorem store_onMgmt (f : Mgmt → Mgmt) : (onMgmt f s).store = s.store := rfl
@[simp] theorem mgmt_onMgmt (f : Mgmt → Mgmt) : (onMgmt f s).mgmt = f s.mgmt := rfl
@[simp] theorem order_onMgmt (f : Mgmt → Mgmt) : (onMgmt f s).order = s.order := rfl
@[simp] theorem freeIndex_onMgmt (f : Mgmt → Mgmt) : (onMgmt f s).freeIndex = s.freeIndex := rfl
@[simp] theorem pending_onMgmt (f : Mgmt → Mgmt) : (onMgmt f s).pending = s.pending := rfl

/-! ### onStore -/

@[simp] theorem now_onStore (f : Store → Store) : (onStore f s).now = s.now := rfl
@[simp] theorem powered_onStore (f : Store → Store) : (onStore f s).powered = s.powered := rfl
@[simp] theorem link_onStore (f : Store → Store) : (onStore f s).link = s.link := rfl
@[simp] theorem up_onStore (f : Store → Store) : (onStore f s).up = s.up := rfl
@[simp] theorem field_onStore (f : Store → Store) : (onStore f s).field = s.field := rfl
@[simp] theorem cyc_onStore (f : Store → Store) : (onStore f s).cyc = s.cyc := rfl
@[simp] theorem arb_onStore (f : Store → Store) : (onStore f s).arb = s.arb := rfl
@[simp] theorem relay_onStore (f : Store → Store) : (onStore f s).relay = s.relay := rfl
@[simp] theorem chans_onStore (f : Store → Store) : (onStore f s).chans = s.chans := rfl
@[simp] theorem demand_onStore (f : Store → Store) : (onStore f s).demand = s.demand := rfl
@[simp] theorem seq_onStore (f : Store → Store) : (onStore f s).seq = s.seq := rfl
@[simp] theorem flue_onStore (f : Store → Store) : (onStore f s).flue = s.flue := rfl
@[simp] theorem frost_onStore (f : Store → Store) : (onStore f s).frost = s.frost := rfl
@[simp] theorem lock_onStore (f : Store → Store) : (onStore f s).lock = s.lock := rfl
@[simp] theorem store_onStore (f : Store → Store) : (onStore f s).store = f s.store := rfl
@[simp] theorem mgmt_onStore (f : Store → Store) : (onStore f s).mgmt = s.mgmt := rfl
@[simp] theorem order_onStore (f : Store → Store) : (onStore f s).order = s.order := rfl
@[simp] theorem freeIndex_onStore (f : Store → Store) : (onStore f s).freeIndex = s.freeIndex := rfl
@[simp] theorem pending_onStore (f : Store → Store) : (onStore f s).pending = s.pending := rfl

/-! ### onZone -/

@[simp] theorem now_onZone (z : Fin 6) (f : Zone → Zone) : (onZone z f s).now = s.now := rfl
@[simp] theorem powered_onZone (z : Fin 6) (f : Zone → Zone) : (onZone z f s).powered = s.powered := rfl
@[simp] theorem link_onZone (z : Fin 6) (f : Zone → Zone) : (onZone z f s).link = s.link := rfl
@[simp] theorem up_onZone (z : Fin 6) (f : Zone → Zone) : (onZone z f s).up = s.up := rfl
@[simp] theorem field_onZone (z : Fin 6) (f : Zone → Zone) : (onZone z f s).field = s.field := rfl
@[simp] theorem cyc_onZone (z : Fin 6) (f : Zone → Zone) : (onZone z f s).cyc = s.cyc := rfl
@[simp] theorem arb_onZone (z : Fin 6) (f : Zone → Zone) : (onZone z f s).arb = s.arb := rfl
@[simp] theorem relay_onZone (z : Fin 6) (f : Zone → Zone) : (onZone z f s).relay = s.relay := rfl
@[simp] theorem chans_onZone (z : Fin 6) (f : Zone → Zone) : (onZone z f s).chans = s.chans := rfl
@[simp] theorem demand_onZone (z : Fin 6) (f : Zone → Zone) : (onZone z f s).demand = s.demand := rfl
@[simp] theorem seq_onZone (z : Fin 6) (f : Zone → Zone) : (onZone z f s).seq = s.seq := rfl
@[simp] theorem flue_onZone (z : Fin 6) (f : Zone → Zone) : (onZone z f s).flue = s.flue := rfl
@[simp] theorem frost_onZone (z : Fin 6) (f : Zone → Zone) :
    (onZone z f s).frost = { s.frost with zones := s.frost.zones.set z.val (f (zone s z)) z.isLt } := rfl
@[simp] theorem lock_onZone (z : Fin 6) (f : Zone → Zone) : (onZone z f s).lock = s.lock := rfl
@[simp] theorem store_onZone (z : Fin 6) (f : Zone → Zone) : (onZone z f s).store = s.store := rfl
@[simp] theorem mgmt_onZone (z : Fin 6) (f : Zone → Zone) : (onZone z f s).mgmt = s.mgmt := rfl
@[simp] theorem order_onZone (z : Fin 6) (f : Zone → Zone) : (onZone z f s).order = s.order := rfl
@[simp] theorem freeIndex_onZone (z : Fin 6) (f : Zone → Zone) : (onZone z f s).freeIndex = s.freeIndex := rfl
@[simp] theorem pending_onZone (z : Fin 6) (f : Zone → Zone) : (onZone z f s).pending = s.pending := rfl

/-! ### setChan -/

@[simp] theorem now_setChan (k : Fin 14) (c : Channel) : (setChan k c s).now = s.now := rfl
@[simp] theorem powered_setChan (k : Fin 14) (c : Channel) : (setChan k c s).powered = s.powered := rfl
@[simp] theorem link_setChan (k : Fin 14) (c : Channel) : (setChan k c s).link = s.link := rfl
@[simp] theorem up_setChan (k : Fin 14) (c : Channel) : (setChan k c s).up = s.up := rfl
@[simp] theorem field_setChan (k : Fin 14) (c : Channel) : (setChan k c s).field = s.field := rfl
@[simp] theorem cyc_setChan (k : Fin 14) (c : Channel) : (setChan k c s).cyc = s.cyc := rfl
@[simp] theorem arb_setChan (k : Fin 14) (c : Channel) : (setChan k c s).arb = s.arb := rfl
@[simp] theorem relay_setChan (k : Fin 14) (c : Channel) : (setChan k c s).relay = s.relay := rfl
@[simp] theorem chans_setChan (k : Fin 14) (c : Channel) : (setChan k c s).chans = s.chans.set k.val c k.isLt := rfl
@[simp] theorem demand_setChan (k : Fin 14) (c : Channel) : (setChan k c s).demand = s.demand := rfl
@[simp] theorem seq_setChan (k : Fin 14) (c : Channel) : (setChan k c s).seq = s.seq := rfl
@[simp] theorem flue_setChan (k : Fin 14) (c : Channel) : (setChan k c s).flue = s.flue := rfl
@[simp] theorem frost_setChan (k : Fin 14) (c : Channel) : (setChan k c s).frost = s.frost := rfl
@[simp] theorem lock_setChan (k : Fin 14) (c : Channel) : (setChan k c s).lock = s.lock := rfl
@[simp] theorem store_setChan (k : Fin 14) (c : Channel) : (setChan k c s).store = s.store := rfl
@[simp] theorem mgmt_setChan (k : Fin 14) (c : Channel) : (setChan k c s).mgmt = s.mgmt := rfl
@[simp] theorem order_setChan (k : Fin 14) (c : Channel) : (setChan k c s).order = s.order := rfl
@[simp] theorem freeIndex_setChan (k : Fin 14) (c : Channel) : (setChan k c s).freeIndex = s.freeIndex := rfl
@[simp] theorem pending_setChan (k : Fin 14) (c : Channel) : (setChan k c s).pending = s.pending := rfl

/-! ### setStored -/

@[simp] theorem now_setStored (p : Nat) (i : Image) : (setStored p i s).now = s.now := rfl
@[simp] theorem powered_setStored (p : Nat) (i : Image) : (setStored p i s).powered = s.powered := rfl
@[simp] theorem link_setStored (p : Nat) (i : Image) : (setStored p i s).link = s.link := rfl
@[simp] theorem up_setStored (p : Nat) (i : Image) : (setStored p i s).up = s.up := rfl
@[simp] theorem field_setStored (p : Nat) (i : Image) : (setStored p i s).field = s.field := rfl
@[simp] theorem cyc_setStored (p : Nat) (i : Image) : (setStored p i s).cyc = s.cyc := rfl
@[simp] theorem arb_setStored (p : Nat) (i : Image) : (setStored p i s).arb = s.arb := rfl
@[simp] theorem relay_setStored (p : Nat) (i : Image) : (setStored p i s).relay = s.relay := rfl
@[simp] theorem chans_setStored (p : Nat) (i : Image) : (setStored p i s).chans = s.chans := rfl
@[simp] theorem demand_setStored (p : Nat) (i : Image) : (setStored p i s).demand = s.demand := rfl
@[simp] theorem seq_setStored (p : Nat) (i : Image) : (setStored p i s).seq = s.seq := rfl
@[simp] theorem flue_setStored (p : Nat) (i : Image) : (setStored p i s).flue = s.flue := rfl
@[simp] theorem frost_setStored (p : Nat) (i : Image) : (setStored p i s).frost = s.frost := rfl
@[simp] theorem lock_setStored (p : Nat) (i : Image) : (setStored p i s).lock = s.lock := rfl
@[simp] theorem store_setStored (p : Nat) (i : Image) :
    (setStored p i s).store = { s.store with stored := s.store.stored.setIfInBounds p i } := rfl
@[simp] theorem mgmt_setStored (p : Nat) (i : Image) : (setStored p i s).mgmt = s.mgmt := rfl
@[simp] theorem order_setStored (p : Nat) (i : Image) : (setStored p i s).order = s.order := rfl
@[simp] theorem freeIndex_setStored (p : Nat) (i : Image) : (setStored p i s).freeIndex = s.freeIndex := rfl
@[simp] theorem pending_setStored (p : Nat) (i : Image) : (setStored p i s).pending = s.pending := rfl

/-! ### setCopy -/

@[simp] theorem now_setCopy (p : Nat) (c : Copy) : (setCopy p c s).now = s.now := rfl
@[simp] theorem powered_setCopy (p : Nat) (c : Copy) : (setCopy p c s).powered = s.powered := rfl
@[simp] theorem link_setCopy (p : Nat) (c : Copy) : (setCopy p c s).link = s.link := rfl
@[simp] theorem up_setCopy (p : Nat) (c : Copy) : (setCopy p c s).up = s.up := rfl
@[simp] theorem field_setCopy (p : Nat) (c : Copy) : (setCopy p c s).field = s.field := rfl
@[simp] theorem cyc_setCopy (p : Nat) (c : Copy) : (setCopy p c s).cyc = s.cyc := rfl
@[simp] theorem arb_setCopy (p : Nat) (c : Copy) : (setCopy p c s).arb = s.arb := rfl
@[simp] theorem relay_setCopy (p : Nat) (c : Copy) : (setCopy p c s).relay = s.relay := rfl
@[simp] theorem chans_setCopy (p : Nat) (c : Copy) : (setCopy p c s).chans = s.chans := rfl
@[simp] theorem demand_setCopy (p : Nat) (c : Copy) : (setCopy p c s).demand = s.demand := rfl
@[simp] theorem seq_setCopy (p : Nat) (c : Copy) : (setCopy p c s).seq = s.seq := rfl
@[simp] theorem flue_setCopy (p : Nat) (c : Copy) : (setCopy p c s).flue = s.flue := rfl
@[simp] theorem frost_setCopy (p : Nat) (c : Copy) : (setCopy p c s).frost = s.frost := rfl
@[simp] theorem lock_setCopy (p : Nat) (c : Copy) : (setCopy p c s).lock = s.lock := rfl
@[simp] theorem store_setCopy (p : Nat) (c : Copy) :
    (setCopy p c s).store = { s.store with copies := s.store.copies.setIfInBounds p c } := rfl
@[simp] theorem mgmt_setCopy (p : Nat) (c : Copy) : (setCopy p c s).mgmt = s.mgmt := rfl
@[simp] theorem order_setCopy (p : Nat) (c : Copy) : (setCopy p c s).order = s.order := rfl
@[simp] theorem freeIndex_setCopy (p : Nat) (c : Copy) : (setCopy p c s).freeIndex = s.freeIndex := rfl
@[simp] theorem pending_setCopy (p : Nat) (c : Copy) : (setCopy p c s).pending = s.pending := rfl

/-! ### askWrite -/

@[simp] theorem now_askWrite (p : Nat) : (askWrite p s).now = s.now := rfl
@[simp] theorem powered_askWrite (p : Nat) : (askWrite p s).powered = s.powered := rfl
@[simp] theorem link_askWrite (p : Nat) : (askWrite p s).link = s.link := rfl
@[simp] theorem up_askWrite (p : Nat) : (askWrite p s).up = s.up := rfl
@[simp] theorem field_askWrite (p : Nat) : (askWrite p s).field = s.field := rfl
@[simp] theorem cyc_askWrite (p : Nat) : (askWrite p s).cyc = s.cyc := rfl
@[simp] theorem arb_askWrite (p : Nat) : (askWrite p s).arb = s.arb := rfl
@[simp] theorem relay_askWrite (p : Nat) : (askWrite p s).relay = s.relay := rfl
@[simp] theorem chans_askWrite (p : Nat) : (askWrite p s).chans = s.chans := rfl
@[simp] theorem demand_askWrite (p : Nat) : (askWrite p s).demand = s.demand := rfl
@[simp] theorem seq_askWrite (p : Nat) : (askWrite p s).seq = s.seq := rfl
@[simp] theorem flue_askWrite (p : Nat) : (askWrite p s).flue = s.flue := rfl
@[simp] theorem frost_askWrite (p : Nat) : (askWrite p s).frost = s.frost := rfl
@[simp] theorem lock_askWrite (p : Nat) : (askWrite p s).lock = s.lock := rfl
@[simp] theorem store_askWrite (p : Nat) :
    (askWrite p s).store = { s.store with pendingRec := insertPage p s.store.pendingRec } := rfl
@[simp] theorem mgmt_askWrite (p : Nat) : (askWrite p s).mgmt = s.mgmt := rfl
@[simp] theorem order_askWrite (p : Nat) : (askWrite p s).order = s.order := rfl
@[simp] theorem freeIndex_askWrite (p : Nat) : (askWrite p s).freeIndex = s.freeIndex := rfl
@[simp] theorem pending_askWrite (p : Nat) : (askWrite p s).pending = s.pending := rfl

/-! ### setUtq -/

@[simp] theorem now_setUtq (q : List UtqEntry) : (setUtq q s).now = s.now := rfl
@[simp] theorem powered_setUtq (q : List UtqEntry) : (setUtq q s).powered = s.powered := rfl
@[simp] theorem link_setUtq (q : List UtqEntry) : (setUtq q s).link = s.link := rfl
@[simp] theorem up_setUtq (q : List UtqEntry) : (setUtq q s).up = s.up := rfl
@[simp] theorem field_setUtq (q : List UtqEntry) : (setUtq q s).field = s.field := rfl
@[simp] theorem cyc_setUtq (q : List UtqEntry) : (setUtq q s).cyc = s.cyc := rfl
@[simp] theorem arb_setUtq (q : List UtqEntry) : (setUtq q s).arb = s.arb := rfl
@[simp] theorem relay_setUtq (q : List UtqEntry) : (setUtq q s).relay = { s.relay with utq := q } := rfl
@[simp] theorem chans_setUtq (q : List UtqEntry) : (setUtq q s).chans = s.chans := rfl
@[simp] theorem demand_setUtq (q : List UtqEntry) : (setUtq q s).demand = s.demand := rfl
@[simp] theorem seq_setUtq (q : List UtqEntry) : (setUtq q s).seq = s.seq := rfl
@[simp] theorem flue_setUtq (q : List UtqEntry) : (setUtq q s).flue = s.flue := rfl
@[simp] theorem frost_setUtq (q : List UtqEntry) : (setUtq q s).frost = s.frost := rfl
@[simp] theorem lock_setUtq (q : List UtqEntry) : (setUtq q s).lock = s.lock := rfl
@[simp] theorem store_setUtq (q : List UtqEntry) : (setUtq q s).store = s.store := rfl
@[simp] theorem mgmt_setUtq (q : List UtqEntry) : (setUtq q s).mgmt = s.mgmt := rfl
@[simp] theorem order_setUtq (q : List UtqEntry) : (setUtq q s).order = s.order := rfl
@[simp] theorem freeIndex_setUtq (q : List UtqEntry) : (setUtq q s).freeIndex = s.freeIndex := rfl
@[simp] theorem pending_setUtq (q : List UtqEntry) : (setUtq q s).pending = s.pending := rfl

/-! ### addEvents -/

@[simp] theorem now_addEvents (m : EventSet) : (addEvents m s).now = s.now := rfl
@[simp] theorem powered_addEvents (m : EventSet) : (addEvents m s).powered = s.powered := rfl
@[simp] theorem link_addEvents (m : EventSet) : (addEvents m s).link = s.link := rfl
@[simp] theorem up_addEvents (m : EventSet) : (addEvents m s).up = s.up := rfl
@[simp] theorem field_addEvents (m : EventSet) : (addEvents m s).field = s.field := rfl
@[simp] theorem cyc_addEvents (m : EventSet) : (addEvents m s).cyc = s.cyc := rfl
@[simp] theorem arb_addEvents (m : EventSet) : (addEvents m s).arb = s.arb := rfl
@[simp] theorem relay_addEvents (m : EventSet) : (addEvents m s).relay = s.relay := rfl
@[simp] theorem chans_addEvents (m : EventSet) : (addEvents m s).chans = s.chans := rfl
@[simp] theorem demand_addEvents (m : EventSet) : (addEvents m s).demand = s.demand := rfl
@[simp] theorem seq_addEvents (m : EventSet) : (addEvents m s).seq = s.seq := rfl
@[simp] theorem flue_addEvents (m : EventSet) : (addEvents m s).flue = s.flue := rfl
@[simp] theorem frost_addEvents (m : EventSet) : (addEvents m s).frost = s.frost := rfl
@[simp] theorem lock_addEvents (m : EventSet) : (addEvents m s).lock = s.lock := rfl
@[simp] theorem store_addEvents (m : EventSet) : (addEvents m s).store = s.store := rfl
@[simp] theorem mgmt_addEvents (m : EventSet) :
    (addEvents m s).mgmt = { s.mgmt with events := s.mgmt.events ||| m } := rfl
@[simp] theorem order_addEvents (m : EventSet) : (addEvents m s).order = s.order := rfl
@[simp] theorem freeIndex_addEvents (m : EventSet) : (addEvents m s).freeIndex = s.freeIndex := rfl
@[simp] theorem pending_addEvents (m : EventSet) : (addEvents m s).pending = s.pending := rfl

/-! ### renewOrder -/

@[simp] theorem now_renewOrder : (renewOrder s).now = s.now := rfl
@[simp] theorem powered_renewOrder : (renewOrder s).powered = s.powered := rfl
@[simp] theorem link_renewOrder : (renewOrder s).link = s.link := rfl
@[simp] theorem up_renewOrder : (renewOrder s).up = s.up := rfl
@[simp] theorem field_renewOrder : (renewOrder s).field = s.field := rfl
@[simp] theorem cyc_renewOrder : (renewOrder s).cyc = s.cyc := rfl
@[simp] theorem arb_renewOrder : (renewOrder s).arb = s.arb := rfl
@[simp] theorem relay_renewOrder : (renewOrder s).relay = s.relay := rfl
@[simp] theorem chans_renewOrder : (renewOrder s).chans = s.chans := rfl
@[simp] theorem demand_renewOrder : (renewOrder s).demand = s.demand := rfl
@[simp] theorem seq_renewOrder : (renewOrder s).seq = s.seq := rfl
@[simp] theorem flue_renewOrder : (renewOrder s).flue = s.flue := rfl
@[simp] theorem frost_renewOrder : (renewOrder s).frost = s.frost := rfl
@[simp] theorem lock_renewOrder : (renewOrder s).lock = s.lock := rfl
@[simp] theorem store_renewOrder : (renewOrder s).store = s.store := rfl
@[simp] theorem mgmt_renewOrder : (renewOrder s).mgmt = s.mgmt := rfl
@[simp] theorem order_renewOrder : (renewOrder s).order = Config.freeOrder s.freeIndex := rfl
@[simp] theorem freeIndex_renewOrder : (renewOrder s).freeIndex = s.freeIndex + 1 := rfl
@[simp] theorem pending_renewOrder : (renewOrder s).pending = s.pending := rfl

/-! ### placeSet -/

@[simp] theorem now_placeSet (o : OutputSet) : (placeSet o s).now = s.now := rfl
@[simp] theorem powered_placeSet (o : OutputSet) : (placeSet o s).powered = s.powered := rfl
@[simp] theorem link_placeSet (o : OutputSet) : (placeSet o s).link = s.link := rfl
@[simp] theorem up_placeSet (o : OutputSet) : (placeSet o s).up = s.up := rfl
@[simp] theorem field_placeSet (o : OutputSet) : (placeSet o s).field = s.field := rfl
@[simp] theorem cyc_placeSet (o : OutputSet) : (placeSet o s).cyc = s.cyc := rfl
@[simp] theorem arb_placeSet (o : OutputSet) :
    (placeSet o s).arb = { s.arb with pending := some { dst := burnerStation s, set := o } } := rfl
@[simp] theorem relay_placeSet (o : OutputSet) : (placeSet o s).relay = s.relay := rfl
@[simp] theorem chans_placeSet (o : OutputSet) : (placeSet o s).chans = s.chans := rfl
@[simp] theorem demand_placeSet (o : OutputSet) : (placeSet o s).demand = s.demand := rfl
@[simp] theorem seq_placeSet (o : OutputSet) :
    (placeSet o s).seq = { s.seq with current := o, rePlace := .stopped } := rfl
@[simp] theorem flue_placeSet (o : OutputSet) : (placeSet o s).flue = s.flue := rfl
@[simp] theorem frost_placeSet (o : OutputSet) : (placeSet o s).frost = s.frost := rfl
@[simp] theorem lock_placeSet (o : OutputSet) : (placeSet o s).lock = s.lock := rfl
@[simp] theorem store_placeSet (o : OutputSet) : (placeSet o s).store = s.store := rfl
@[simp] theorem mgmt_placeSet (o : OutputSet) : (placeSet o s).mgmt = s.mgmt := rfl
@[simp] theorem order_placeSet (o : OutputSet) : (placeSet o s).order = s.order := rfl
@[simp] theorem freeIndex_placeSet (o : OutputSet) : (placeSet o s).freeIndex = s.freeIndex := rfl
@[simp] theorem pending_placeSet (o : OutputSet) : (placeSet o s).pending = s.pending := rfl

/-! ### onPort -/

@[simp] theorem now_onPort (p : PortId) (f : Port → Port) : (onPort p f s).now = s.now := by cases p <;> rfl
@[simp] theorem powered_onPort (p : PortId) (f : Port → Port) : (onPort p f s).powered = s.powered := by cases p <;> rfl
@[simp] theorem link_onPort (p : PortId) (f : Port → Port) : (onPort p f s).link = s.link := by cases p <;> rfl
@[simp] theorem cyc_onPort (p : PortId) (f : Port → Port) : (onPort p f s).cyc = s.cyc := by cases p <;> rfl
@[simp] theorem arb_onPort (p : PortId) (f : Port → Port) : (onPort p f s).arb = s.arb := by cases p <;> rfl
@[simp] theorem relay_onPort (p : PortId) (f : Port → Port) : (onPort p f s).relay = s.relay := by cases p <;> rfl
@[simp] theorem chans_onPort (p : PortId) (f : Port → Port) : (onPort p f s).chans = s.chans := by cases p <;> rfl
@[simp] theorem demand_onPort (p : PortId) (f : Port → Port) : (onPort p f s).demand = s.demand := by cases p <;> rfl
@[simp] theorem seq_onPort (p : PortId) (f : Port → Port) : (onPort p f s).seq = s.seq := by cases p <;> rfl
@[simp] theorem flue_onPort (p : PortId) (f : Port → Port) : (onPort p f s).flue = s.flue := by cases p <;> rfl
@[simp] theorem frost_onPort (p : PortId) (f : Port → Port) : (onPort p f s).frost = s.frost := by cases p <;> rfl
@[simp] theorem lock_onPort (p : PortId) (f : Port → Port) : (onPort p f s).lock = s.lock := by cases p <;> rfl
@[simp] theorem store_onPort (p : PortId) (f : Port → Port) : (onPort p f s).store = s.store := by cases p <;> rfl
@[simp] theorem mgmt_onPort (p : PortId) (f : Port → Port) : (onPort p f s).mgmt = s.mgmt := by cases p <;> rfl
@[simp] theorem order_onPort (p : PortId) (f : Port → Port) : (onPort p f s).order = s.order := by cases p <;> rfl
@[simp] theorem freeIndex_onPort (p : PortId) (f : Port → Port) : (onPort p f s).freeIndex = s.freeIndex := by cases p <;> rfl
@[simp] theorem pending_onPort (p : PortId) (f : Port → Port) : (onPort p f s).pending = s.pending := by cases p <;> rfl
@[simp] theorem up_onPort_upstream (f : Port → Port) : (onPort .upstream f s).up = f s.up := rfl
@[simp] theorem up_onPort_field (f : Port → Port) : (onPort .field f s).up = s.up := rfl
@[simp] theorem field_onPort_field (f : Port → Port) : (onPort .field f s).field = f s.field := rfl
@[simp] theorem field_onPort_upstream (f : Port → Port) : (onPort .upstream f s).field = s.field := rfl

/-! ### A choice read from the free order -/

@[simp] theorem now_pick (n : Nat) : (pick n s).2.now = s.now := by unfold pick; split <;> rfl
@[simp] theorem powered_pick (n : Nat) : (pick n s).2.powered = s.powered := by unfold pick; split <;> rfl
@[simp] theorem link_pick (n : Nat) : (pick n s).2.link = s.link := by unfold pick; split <;> rfl
@[simp] theorem up_pick (n : Nat) : (pick n s).2.up = s.up := by unfold pick; split <;> rfl
@[simp] theorem field_pick (n : Nat) : (pick n s).2.field = s.field := by unfold pick; split <;> rfl
@[simp] theorem cyc_pick (n : Nat) : (pick n s).2.cyc = s.cyc := by unfold pick; split <;> rfl
@[simp] theorem arb_pick (n : Nat) : (pick n s).2.arb = s.arb := by unfold pick; split <;> rfl
@[simp] theorem relay_pick (n : Nat) : (pick n s).2.relay = s.relay := by unfold pick; split <;> rfl
@[simp] theorem chans_pick (n : Nat) : (pick n s).2.chans = s.chans := by unfold pick; split <;> rfl
@[simp] theorem demand_pick (n : Nat) : (pick n s).2.demand = s.demand := by unfold pick; split <;> rfl
@[simp] theorem seq_pick (n : Nat) : (pick n s).2.seq = s.seq := by unfold pick; split <;> rfl
@[simp] theorem flue_pick (n : Nat) : (pick n s).2.flue = s.flue := by unfold pick; split <;> rfl
@[simp] theorem frost_pick (n : Nat) : (pick n s).2.frost = s.frost := by unfold pick; split <;> rfl
@[simp] theorem lock_pick (n : Nat) : (pick n s).2.lock = s.lock := by unfold pick; split <;> rfl
@[simp] theorem store_pick (n : Nat) : (pick n s).2.store = s.store := by unfold pick; split <;> rfl
@[simp] theorem mgmt_pick (n : Nat) : (pick n s).2.mgmt = s.mgmt := by unfold pick; split <;> rfl
@[simp] theorem freeIndex_pick (n : Nat) : (pick n s).2.freeIndex = s.freeIndex := by unfold pick; split <;> rfl
@[simp] theorem pending_pick (n : Nat) : (pick n s).2.pending = s.pending := by unfold pick; split <;> rfl

/-! ### Reading one element after an update -/

@[simp] theorem port_onPort_self (p : PortId) (f : Port → Port) : port (onPort p f s) p = f (port s p) := by cases p <;> rfl

theorem port_onPort_ne {p q : PortId} (f : Port → Port) (h : q ≠ p) : port (onPort p f s) q = port s q := by
  cases p <;> cases q <;> first | rfl | exact absurd rfl h

@[simp] theorem zone_onZone_self (z : Fin 6) (f : Zone → Zone) : zone (onZone z f s) z = f (zone s z) := by simp [zone]

theorem zone_onZone_ne {y z : Fin 6} (f : Zone → Zone) (h : y ≠ z) : zone (onZone z f s) y = zone s y := by
  have : z.val ≠ y.val := fun e => h (Fin.ext e.symm)
  simp [zone, this]

@[simp] theorem chan_setChan_self (k : Fin 14) (c : Channel) : chan (setChan k c s) k = c := by simp [chan]

theorem chan_setChan_ne {j k : Fin 14} (c : Channel) (h : j ≠ k) : chan (setChan k c s) j = chan s j := by
  have : k.val ≠ j.val := fun e => h (Fin.ext e.symm)
  simp [chan, this]

theorem copyOf_setCopy_self {p : Nat} (c : Copy) (h : p < 21) : copyOf (setCopy p c s) p = c := by
  simp [copyOf, Vector.getD, h]

theorem copyOf_setCopy_ne {p q : Nat} (c : Copy) (h : q ≠ p) : copyOf (setCopy p c s) q = copyOf s q := by
  simp [copyOf, Vector.getD, h.symm]

theorem pageOf_setCopy_ne {p q : Nat} (c : Copy) (h : q ≠ p) : pageOf (setCopy p c s) q = pageOf s q := by
  simp [pageOf, copyOf_setCopy_ne s c h]

theorem storedOf_setStored_self {p : Nat} (i : Image) (h : p < 21) : storedOf (setStored p i s) p = i := by
  simp [storedOf, Vector.getD, h]

theorem storedOf_setStored_ne {p q : Nat} (i : Image) (h : q ≠ p) : storedOf (setStored p i s) q = storedOf s q := by
  simp [storedOf, Vector.getD, h.symm]

/-! ### The held stations -/

/-- The held stations are the pumps and valves of the zones that hold (R104). -/
theorem mem_heldStations {x : ZoneStation} : x ∈ heldStations s ↔
    ∃ z : Fin 6, (zone s z).state.holds = true ∧ ((zoneRec s z).pump = some x ∨ (zoneRec s z).valve = some x) := by
  simp only [heldStations, List.mem_flatMap, List.mem_finRange, true_and]
  refine exists_congr (fun z => ?_)
  split
  · next h => simp [h]
  · next h => simp [h]

/-! ### The pages a record-page change does not touch -/

theorem copyOf_changeRecord_ne {p q : Nat} (c : Content) (h : q ≠ p) : copyOf (changeRecord p c s) q = copyOf s q := by
  unfold changeRecord
  exact copyOf_setCopy_ne s _ h

theorem copyOf_changeLock_ne {q : Nat} (f : LockPage → LockPage) (h : q ≠ 14) : copyOf (changeLock f s) q = copyOf s q :=
  copyOf_changeRecord_ne s _ h

end Sys2Proof.Machine
end

