-- ==== Sys2Proof/Laws/Pages.lean ====
section
/-! SUPPORT. Page 14 read back as it was written, and the clamps and roundings of Bytes.lean. -/

namespace Sys2Proof.Machine

/-! ### Bytes -/

@[simp] theorem toNat_byteOf (n : Nat) : (byteOf n).toNat = n % 256 := by simp [byteOf]

theorem clampInt_bounds {lo hi : Int} (h : lo ≤ hi) (x : Int) : lo ≤ clampInt lo hi x ∧ clampInt lo hi x ≤ hi := by
  unfold clampInt
  repeat' split
  all_goals omega

theorem clampInt_inside {lo hi x : Int} (h1 : lo ≤ x) (h2 : x ≤ hi) : clampInt lo hi x = x := by
  unfold clampInt
  repeat' split
  all_goals omega

theorem clampNat_bounds {lo hi : Nat} (h : lo ≤ hi) (x : Nat) : lo ≤ clampNat lo hi x ∧ clampNat lo hi x ≤ hi := by
  unfold clampNat
  repeat' split
  all_goals omega

theorem saturate_le (top n : Nat) : saturate top n ≤ top := by
  unfold saturate
  split <;> omega

/-- A shift rounds to a number no larger in size and of no other sign. -/
theorem roundDiv_between (d : Int) (k : Nat) (hk : 0 < k) :
    (0 ≤ d → 0 ≤ roundDiv d k ∧ roundDiv d k ≤ d) ∧ (d ≤ 0 → d ≤ roundDiv d k ∧ roundDiv d k ≤ 0) := by
  have hq : (2 * d.natAbs + k) / (2 * k) ≤ d.natAbs := by
    have hm : d.natAbs ≤ k * d.natAbs := Nat.le_mul_of_pos_left _ hk
    have he : (d.natAbs + 1) * (2 * k) = 2 * (k * d.natAbs) + 2 * k := by
      rw [Nat.add_mul, Nat.mul_comm d.natAbs, Nat.mul_assoc]; omega
    cases hz : d.natAbs with
    | zero => exact Nat.le_of_eq (Nat.div_eq_of_lt (by omega))
    | succ m =>
      rw [← hz]
      refine Nat.le_of_lt_succ ((Nat.div_lt_iff_lt_mul (by omega)).mpr ?_)
      rw [Nat.succ_eq_add_one, he]
      omega
  unfold roundDiv
  dsimp only
  generalize (2 * d.natAbs + k) / (2 * k) = q at hq
  constructor
  · intro h
    split <;> omega
  · intro h
    split <;> omega

/-! ### Page 14 -/

/-- The items a page 14 can hold. -/
structure LockPage.Fits (l : LockPage) : Prop where
  sequence : ∀ n, l.sequence = some n → n < 65536
  count : l.resets.length ≤ 3
  ages : ∀ n ∈ l.resets, n < 256
  next : l.nextSeq < 65536

theorem byteAt_lt (c : List Byte) (i : Nat) : byteAt c i < 256 := by
  unfold byteAt
  have := (c.getD i 0).isLt
  omega

theorem u16At_lt (c : List Byte) (i : Nat) : u16At c i < 65536 := by
  have h1 := byteAt_lt c i
  have h2 := byteAt_lt c (i + 1)
  unfold u16At
  omega

/-- What is read from a page 14 fits one. -/
theorem decodeLock_fits (c : Content) : (decodeLock c).Fits := by
  refine ⟨?_, ?_, ?_, u16At_lt _ _⟩
  · intro n h
    simp only [decodeLock] at h
    split at h
    · cases h
      exact u16At_lt _ _
    · cases h
  · simp only [decodeLock, List.length_take, List.length_cons, List.length_nil]
    omega
  · intro n h
    have := List.mem_of_mem_take h
    simp only [List.mem_cons, List.not_mem_nil, or_false] at this
    rcases this with rfl | rfl | rfl <;> exact byteAt_lt _ _

theorem lockPage_fits (s : State) : (lockPage s).Fits := decodeLock_fits _

theorem ofCode_code (r : Option Reason) : Reason.ofCode ((r.map Reason.code).getD 0) = r := by
  cases r with
  | none => rfl
  | some r => cases r <;> rfl

theorem reasonByte_lt (r : Option Reason) : (r.map Reason.code).getD 0 < 256 := by
  cases r with
  | none => decide
  | some r => cases r <;> decide

/-- Page 14 reads back as it was written. -/
theorem decodeLock_encodeLock {l : LockPage} (h : l.Fits) : decodeLock (encodeLock l) = l := by
  obtain ⟨locked, reason, sequence, resets, next⟩ := l
  obtain ⟨h1, h2, h3, h4⟩ := h
  simp only at h1 h2 h3 h4
  have hr := reasonByte_lt reason
  have hc := ofCode_code reason
  have hs : sequence.getD 0 < 65536 := by
    cases sequence with
    | none => decide
    | some n => exact h1 n rfl
  have hn : 256 * (next / 256 % 256) + next % 256 = next := by omega
  have hq : 256 * (sequence.getD 0 / 256 % 256) + sequence.getD 0 % 256 = sequence.getD 0 := by omega
  have b0 : (flag 0 locked + flag 1 sequence.isSome) % 256 = flag 0 locked + flag 1 sequence.isSome := by
    cases locked <;> cases sequence <;> simp [flag]
  have b1 : bit (flag 0 locked + flag 1 sequence.isSome) 0 = locked := by
    cases locked <;> cases sequence <;> simp [bit, flag]
  have b2 : bit (flag 0 locked + flag 1 sequence.isSome) 1 = sequence.isSome := by
    cases locked <;> cases sequence <;> simp [bit, flag, Nat.testBit]
  have hl : resets.length % 256 = resets.length := Nat.mod_eq_of_lt (by omega)
  simp only [decodeLock, encodeLock, byteAt, u16At, word16, List.cons_append, List.nil_append, List.getD_cons_zero,
    List.getD_cons_succ, toNat_byteOf, b0, b1, b2, hn, hq, hl, Nat.mod_eq_of_lt hr, hc, LockPage.mk.injEq, true_and, and_true]
  constructor
  · cases sequence <;> rfl
  · match resets, h2, h3 with
    | [], _, _ => rfl
    | [a], _, h3 => simp [Nat.mod_eq_of_lt (h3 a (by simp))]
    | [a, b], _, h3 => simp [Nat.mod_eq_of_lt (h3 a (by simp)), Nat.mod_eq_of_lt (h3 b (by simp))]
    | [a, b, c], _, h3 =>
      simp [Nat.mod_eq_of_lt (h3 a (by simp)), Nat.mod_eq_of_lt (h3 b (by simp)), Nat.mod_eq_of_lt (h3 c (by simp))]
    | _ :: _ :: _ :: _ :: _, h2, _ => exact absurd h2 (by simp only [List.length_cons]; omega)

/-- The items of page 14 after a change of it (R115). -/
theorem lockPage_changeLock (s : State) (f : LockPage → LockPage) (h : (f (lockPage s)).Fits) :
    lockPage (changeLock f s) = f (lockPage s) := by
  have : pageOf (changeLock f s) 14 = encodeLock (f (lockPage s)) := by
    have := copyOf_setCopy_self s (p := 14) (Copy.sound (encodeLock (f (lockPage s))) .record) (by omega)
    exact congrArg Copy.content this
  rw [lockPage, this]
  exact decodeLock_encodeLock h

end Sys2Proof.Machine
end

