-- ==== Sys2Proof/Laws/Frame.lean ====
section
/-! SUPPORT. What the shared operations leave alone: one lemma per field of the state, so that a proof about a
command reads a field through the operations without unfolding them. -/

namespace Sys2Proof.Machine

variable (s : State)

/-! ### Alerts -/

@[simp] theorem now_offerAlert : (offerAlert s).now = s.now := by unfold offerAlert; dsimp only; (repeat' split) <;> rfl
@[simp] theorem powered_offerAlert : (offerAlert s).powered = s.powered := by
  unfold offerAlert; dsimp only; (repeat' split) <;> rfl
@[simp] theorem link_offerAlert : (offerAlert s).link = s.link := by
  unfold offerAlert; dsimp only; (repeat' split) <;> rfl
@[simp] theorem up_offerAlert : (offerAlert s).up = s.up := by unfold offerAlert; dsimp only; (repeat' split) <;> rfl
@[simp] theorem field_offerAlert : (offerAlert s).field = s.field := by
  unfold offerAlert; dsimp only; (repeat' split) <;> rfl
@[simp] theorem cyc_offerAlert : (offerAlert s).cyc = s.cyc := by unfold offerAlert; dsimp only; (repeat' split) <;> rfl
@[simp] theorem arb_offerAlert : (offerAlert s).arb = s.arb := by unfold offerAlert; dsimp only; (repeat' split) <;> rfl
@[simp] theorem chans_offerAlert : (offerAlert s).chans = s.chans := by
  unfold offerAlert; dsimp only; (repeat' split) <;> rfl
@[simp] theorem demand_offerAlert : (offerAlert s).demand = s.demand := by
  unfold offerAlert; dsimp only; (repeat' split) <;> rfl
@[simp] theorem seq_offerAlert : (offerAlert s).seq = s.seq := by unfold offerAlert; dsimp only; (repeat' split) <;> rfl
@[simp] theorem flue_offerAlert : (offerAlert s).flue = s.flue := by
  unfold offerAlert; dsimp only; (repeat' split) <;> rfl
@[simp] theorem frost_offerAlert : (offerAlert s).frost = s.frost := by
  unfold offerAlert; dsimp only; (repeat' split) <;> rfl
@[simp] theorem lock_offerAlert : (offerAlert s).lock = s.lock := by
  unfold offerAlert; dsimp only; (repeat' split) <;> rfl
@[simp] theorem store_offerAlert : (offerAlert s).store = s.store := by
  unfold offerAlert; dsimp only; (repeat' split) <;> rfl
@[simp] theorem order_offerAlert : (offerAlert s).order = s.order := by
  unfold offerAlert; dsimp only; (repeat' split) <;> rfl
@[simp] theorem freeIndex_offerAlert : (offerAlert s).freeIndex = s.freeIndex := by
  unfold offerAlert; dsimp only; (repeat' split) <;> rfl
@[simp] theorem pending_offerAlert : (offerAlert s).pending = s.pending := by
  unfold offerAlert; dsimp only; (repeat' split) <;> rfl
@[simp] theorem record_offerAlert : (offerAlert s).relay.record = s.relay.record := by
  unfold offerAlert; dsimp only; (repeat' split) <;> rfl
@[simp] theorem lastRefusal_offerAlert : (offerAlert s).relay.lastRefusal = s.relay.lastRefusal := by
  unfold offerAlert; dsimp only; (repeat' split) <;> rfl
@[simp] theorem report_offerAlert : (offerAlert s).relay.report = s.relay.report := by
  unfold offerAlert; dsimp only; (repeat' split) <;> rfl
@[simp] theorem mailbox_offerAlert : (offerAlert s).mgmt.mailbox = s.mgmt.mailbox := by
  unfold offerAlert; dsimp only; (repeat' split) <;> rfl
@[simp] theorem wait_offerAlert : (offerAlert s).mgmt.wait = s.mgmt.wait := by
  unfold offerAlert; dsimp only; (repeat' split) <;> rfl
@[simp] theorem transfer_offerAlert : (offerAlert s).mgmt.transfer = s.mgmt.transfer := by
  unfold offerAlert; dsimp only; (repeat' split) <;> rfl
@[simp] theorem buffer_offerAlert : (offerAlert s).mgmt.buffer = s.mgmt.buffer := by
  unfold offerAlert; dsimp only; (repeat' split) <;> rfl
@[simp] theorem fetchFactory_offerAlert : (offerAlert s).mgmt.fetchFactory = s.mgmt.fetchFactory := by
  unfold offerAlert; dsimp only; (repeat' split) <;> rfl
@[simp] theorem idle_offerAlert : (offerAlert s).mgmt.idle = s.mgmt.idle := by
  unfold offerAlert; dsimp only; (repeat' split) <;> rfl
@[simp] theorem mask_offerAlert : (offerAlert s).mgmt.mask = s.mgmt.mask := by
  unfold offerAlert; dsimp only; (repeat' split) <;> rfl
@[simp] theorem restart_offerAlert : (offerAlert s).mgmt.restart = s.mgmt.restart := by
  unfold offerAlert; dsimp only; (repeat' split) <;> rfl
@[simp] theorem lastReject_offerAlert : (offerAlert s).mgmt.lastReject = s.mgmt.lastReject := by
  unfold offerAlert; dsimp only; (repeat' split) <;> rfl

/-! ### Latching -/

@[simp] theorem now_latchSet (m : EventSet) : (latchSet m s).now = s.now := by unfold latchSet; split <;> simp
@[simp] theorem powered_latchSet (m : EventSet) : (latchSet m s).powered = s.powered := by
  unfold latchSet; split <;> simp
@[simp] theorem link_latchSet (m : EventSet) : (latchSet m s).link = s.link := by unfold latchSet; split <;> simp
@[simp] theorem up_latchSet (m : EventSet) : (latchSet m s).up = s.up := by unfold latchSet; split <;> simp
@[simp] theorem field_latchSet (m : EventSet) : (latchSet m s).field = s.field := by unfold latchSet; split <;> simp
@[simp] theorem cyc_latchSet (m : EventSet) : (latchSet m s).cyc = s.cyc := by unfold latchSet; split <;> simp
@[simp] theorem arb_latchSet (m : EventSet) : (latchSet m s).arb = s.arb := by unfold latchSet; split <;> simp
@[simp] theorem chans_latchSet (m : EventSet) : (latchSet m s).chans = s.chans := by unfold latchSet; split <;> simp
@[simp] theorem demand_latchSet (m : EventSet) : (latchSet m s).demand = s.demand := by unfold latchSet; split <;> simp
@[simp] theorem seq_latchSet (m : EventSet) : (latchSet m s).seq = s.seq := by unfold latchSet; split <;> simp
@[simp] theorem flue_latchSet (m : EventSet) : (latchSet m s).flue = s.flue := by unfold latchSet; split <;> simp
@[simp] theorem frost_latchSet (m : EventSet) : (latchSet m s).frost = s.frost := by unfold latchSet; split <;> simp
@[simp] theorem lock_latchSet (m : EventSet) : (latchSet m s).lock = s.lock := by unfold latchSet; split <;> simp
@[simp] theorem store_latchSet (m : EventSet) : (latchSet m s).store = s.store := by unfold latchSet; split <;> simp
@[simp] theorem order_latchSet (m : EventSet) : (latchSet m s).order = s.order := by unfold latchSet; split <;> simp
@[simp] theorem freeIndex_latchSet (m : EventSet) : (latchSet m s).freeIndex = s.freeIndex := by
  unfold latchSet; split <;> simp
@[simp] theorem pending_latchSet (m : EventSet) : (latchSet m s).pending = s.pending := by
  unfold latchSet; split <;> simp
@[simp] theorem record_latchSet (m : EventSet) : (latchSet m s).relay.record = s.relay.record := by
  unfold latchSet; split <;> simp
@[simp] theorem lastRefusal_latchSet (m : EventSet) : (latchSet m s).relay.lastRefusal = s.relay.lastRefusal := by
  unfold latchSet; split <;> simp
@[simp] theorem report_latchSet (m : EventSet) : (latchSet m s).relay.report = s.relay.report := by
  unfold latchSet; split <;> simp
@[simp] theorem mailbox_latchSet (m : EventSet) : (latchSet m s).mgmt.mailbox = s.mgmt.mailbox := by
  unfold latchSet; split <;> simp
@[simp] theorem wait_latchSet (m : EventSet) : (latchSet m s).mgmt.wait = s.mgmt.wait := by
  unfold latchSet; split <;> simp
@[simp] theorem transfer_latchSet (m : EventSet) : (latchSet m s).mgmt.transfer = s.mgmt.transfer := by
  unfold latchSet; split <;> simp
@[simp] theorem buffer_latchSet (m : EventSet) : (latchSet m s).mgmt.buffer = s.mgmt.buffer := by
  unfold latchSet; split <;> simp
@[simp] theorem fetchFactory_latchSet (m : EventSet) : (latchSet m s).mgmt.fetchFactory = s.mgmt.fetchFactory := by
  unfold latchSet; split <;> simp
@[simp] theorem idle_latchSet (m : EventSet) : (latchSet m s).mgmt.idle = s.mgmt.idle := by
  unfold latchSet; split <;> simp
@[simp] theorem mask_latchSet (m : EventSet) : (latchSet m s).mgmt.mask = s.mgmt.mask := by
  unfold latchSet; split <;> simp
@[simp] theorem restart_latchSet (m : EventSet) : (latchSet m s).mgmt.restart = s.mgmt.restart := by
  unfold latchSet; split <;> simp
@[simp] theorem lastReject_latchSet (m : EventSet) : (latchSet m s).mgmt.lastReject = s.mgmt.lastReject := by
  unfold latchSet; split <;> simp

/-! ### Latching a list -/

@[simp] theorem now_latch (l : List Event) : (latch l s).now = s.now := by simp [latch]
@[simp] theorem powered_latch (l : List Event) : (latch l s).powered = s.powered := by simp [latch]
@[simp] theorem link_latch (l : List Event) : (latch l s).link = s.link := by simp [latch]
@[simp] theorem up_latch (l : List Event) : (latch l s).up = s.up := by simp [latch]
@[simp] theorem field_latch (l : List Event) : (latch l s).field = s.field := by simp [latch]
@[simp] theorem cyc_latch (l : List Event) : (latch l s).cyc = s.cyc := by simp [latch]
@[simp] theorem arb_latch (l : List Event) : (latch l s).arb = s.arb := by simp [latch]
@[simp] theorem chans_latch (l : List Event) : (latch l s).chans = s.chans := by simp [latch]
@[simp] theorem demand_latch (l : List Event) : (latch l s).demand = s.demand := by simp [latch]
@[simp] theorem seq_latch (l : List Event) : (latch l s).seq = s.seq := by simp [latch]
@[simp] theorem flue_latch (l : List Event) : (latch l s).flue = s.flue := by simp [latch]
@[simp] theorem frost_latch (l : List Event) : (latch l s).frost = s.frost := by simp [latch]
@[simp] theorem lock_latch (l : List Event) : (latch l s).lock = s.lock := by simp [latch]
@[simp] theorem store_latch (l : List Event) : (latch l s).store = s.store := by simp [latch]
@[simp] theorem order_latch (l : List Event) : (latch l s).order = s.order := by simp [latch]
@[simp] theorem freeIndex_latch (l : List Event) : (latch l s).freeIndex = s.freeIndex := by simp [latch]
@[simp] theorem pending_latch (l : List Event) : (latch l s).pending = s.pending := by simp [latch]
@[simp] theorem record_latch (l : List Event) : (latch l s).relay.record = s.relay.record := by simp [latch]
@[simp] theorem lastRefusal_latch (l : List Event) : (latch l s).relay.lastRefusal = s.relay.lastRefusal := by
  simp [latch]
@[simp] theorem report_latch (l : List Event) : (latch l s).relay.report = s.relay.report := by simp [latch]
@[simp] theorem mailbox_latch (l : List Event) : (latch l s).mgmt.mailbox = s.mgmt.mailbox := by simp [latch]
@[simp] theorem wait_latch (l : List Event) : (latch l s).mgmt.wait = s.mgmt.wait := by simp [latch]
@[simp] theorem transfer_latch (l : List Event) : (latch l s).mgmt.transfer = s.mgmt.transfer := by simp [latch]
@[simp] theorem buffer_latch (l : List Event) : (latch l s).mgmt.buffer = s.mgmt.buffer := by simp [latch]
@[simp] theorem fetchFactory_latch (l : List Event) : (latch l s).mgmt.fetchFactory = s.mgmt.fetchFactory := by
  simp [latch]
@[simp] theorem idle_latch (l : List Event) : (latch l s).mgmt.idle = s.mgmt.idle := by simp [latch]
@[simp] theorem mask_latch (l : List Event) : (latch l s).mgmt.mask = s.mgmt.mask := by simp [latch]
@[simp] theorem restart_latch (l : List Event) : (latch l s).mgmt.restart = s.mgmt.restart := by simp [latch]
@[simp] theorem lastReject_latch (l : List Event) : (latch l s).mgmt.lastReject = s.mgmt.lastReject := by simp [latch]

/-! ### The queue upstream -/

@[simp] theorem now_offer (f : Frame) : (offer f s).now = s.now := by unfold offer; dsimp only; split <;> simp
@[simp] theorem powered_offer (f : Frame) : (offer f s).powered = s.powered := by
  unfold offer; dsimp only; split <;> simp
@[simp] theorem link_offer (f : Frame) : (offer f s).link = s.link := by unfold offer; dsimp only; split <;> simp
@[simp] theorem up_offer (f : Frame) : (offer f s).up = s.up := by unfold offer; dsimp only; split <;> simp
@[simp] theorem field_offer (f : Frame) : (offer f s).field = s.field := by unfold offer; dsimp only; split <;> simp
@[simp] theorem cyc_offer (f : Frame) : (offer f s).cyc = s.cyc := by unfold offer; dsimp only; split <;> simp
@[simp] theorem arb_offer (f : Frame) : (offer f s).arb = s.arb := by unfold offer; dsimp only; split <;> simp
@[simp] theorem chans_offer (f : Frame) : (offer f s).chans = s.chans := by unfold offer; dsimp only; split <;> simp
@[simp] theorem demand_offer (f : Frame) : (offer f s).demand = s.demand := by unfold offer; dsimp only; split <;> simp
@[simp] theorem seq_offer (f : Frame) : (offer f s).seq = s.seq := by unfold offer; dsimp only; split <;> simp
@[simp] theorem flue_offer (f : Frame) : (offer f s).flue = s.flue := by unfold offer; dsimp only; split <;> simp
@[simp] theorem frost_offer (f : Frame) : (offer f s).frost = s.frost := by unfold offer; dsimp only; split <;> simp
@[simp] theorem lock_offer (f : Frame) : (offer f s).lock = s.lock := by unfold offer; dsimp only; split <;> simp
@[simp] theorem store_offer (f : Frame) : (offer f s).store = s.store := by unfold offer; dsimp only; split <;> simp
@[simp] theorem order_offer (f : Frame) : (offer f s).order = s.order := by unfold offer; dsimp only; split <;> simp
@[simp] theorem freeIndex_offer (f : Frame) : (offer f s).freeIndex = s.freeIndex := by
  unfold offer; dsimp only; split <;> simp
@[simp] theorem pending_offer (f : Frame) : (offer f s).pending = s.pending := by
  unfold offer; dsimp only; split <;> simp
@[simp] theorem record_offer (f : Frame) : (offer f s).relay.record = s.relay.record := by
  unfold offer; dsimp only; split <;> simp
@[simp] theorem lastRefusal_offer (f : Frame) : (offer f s).relay.lastRefusal = s.relay.lastRefusal := by
  unfold offer; dsimp only; split <;> simp
@[simp] theorem report_offer (f : Frame) : (offer f s).relay.report = s.relay.report := by
  unfold offer; dsimp only; split <;> simp
@[simp] theorem mailbox_offer (f : Frame) : (offer f s).mgmt.mailbox = s.mgmt.mailbox := by
  unfold offer; dsimp only; split <;> simp
@[simp] theorem wait_offer (f : Frame) : (offer f s).mgmt.wait = s.mgmt.wait := by
  unfold offer; dsimp only; split <;> simp
@[simp] theorem transfer_offer (f : Frame) : (offer f s).mgmt.transfer = s.mgmt.transfer := by
  unfold offer; dsimp only; split <;> simp
@[simp] theorem buffer_offer (f : Frame) : (offer f s).mgmt.buffer = s.mgmt.buffer := by
  unfold offer; dsimp only; split <;> simp
@[simp] theorem fetchFactory_offer (f : Frame) : (offer f s).mgmt.fetchFactory = s.mgmt.fetchFactory := by
  unfold offer; dsimp only; split <;> simp
@[simp] theorem idle_offer (f : Frame) : (offer f s).mgmt.idle = s.mgmt.idle := by
  unfold offer; dsimp only; split <;> simp
@[simp] theorem mask_offer (f : Frame) : (offer f s).mgmt.mask = s.mgmt.mask := by
  unfold offer; dsimp only; split <;> simp
@[simp] theorem restart_offer (f : Frame) : (offer f s).mgmt.restart = s.mgmt.restart := by
  unfold offer; dsimp only; split <;> simp
@[simp] theorem lastReject_offer (f : Frame) : (offer f s).mgmt.lastReject = s.mgmt.lastReject := by
  unfold offer; dsimp only; split <;> simp

/-! ### Page Rejected -/

@[simp] theorem now_rejectPage (r : RejectReason) : (rejectPage r s).now = s.now := by simp [rejectPage]
@[simp] theorem powered_rejectPage (r : RejectReason) : (rejectPage r s).powered = s.powered := by simp [rejectPage]
@[simp] theorem link_rejectPage (r : RejectReason) : (rejectPage r s).link = s.link := by simp [rejectPage]
@[simp] theorem up_rejectPage (r : RejectReason) : (rejectPage r s).up = s.up := by simp [rejectPage]
@[simp] theorem field_rejectPage (r : RejectReason) : (rejectPage r s).field = s.field := by simp [rejectPage]
@[simp] theorem cyc_rejectPage (r : RejectReason) : (rejectPage r s).cyc = s.cyc := by simp [rejectPage]
@[simp] theorem arb_rejectPage (r : RejectReason) : (rejectPage r s).arb = s.arb := by simp [rejectPage]
@[simp] theorem chans_rejectPage (r : RejectReason) : (rejectPage r s).chans = s.chans := by simp [rejectPage]
@[simp] theorem demand_rejectPage (r : RejectReason) : (rejectPage r s).demand = s.demand := by simp [rejectPage]
@[simp] theorem seq_rejectPage (r : RejectReason) : (rejectPage r s).seq = s.seq := by simp [rejectPage]
@[simp] theorem flue_rejectPage (r : RejectReason) : (rejectPage r s).flue = s.flue := by simp [rejectPage]
@[simp] theorem frost_rejectPage (r : RejectReason) : (rejectPage r s).frost = s.frost := by simp [rejectPage]
@[simp] theorem lock_rejectPage (r : RejectReason) : (rejectPage r s).lock = s.lock := by simp [rejectPage]
@[simp] theorem store_rejectPage (r : RejectReason) : (rejectPage r s).store = s.store := by simp [rejectPage]
@[simp] theorem order_rejectPage (r : RejectReason) : (rejectPage r s).order = s.order := by simp [rejectPage]
@[simp] theorem freeIndex_rejectPage (r : RejectReason) : (rejectPage r s).freeIndex = s.freeIndex := by
  simp [rejectPage]
@[simp] theorem pending_rejectPage (r : RejectReason) : (rejectPage r s).pending = s.pending := by simp [rejectPage]
@[simp] theorem record_rejectPage (r : RejectReason) : (rejectPage r s).relay.record = s.relay.record := by
  simp [rejectPage]
@[simp] theorem lastRefusal_rejectPage (r : RejectReason) :
    (rejectPage r s).relay.lastRefusal = s.relay.lastRefusal := by
  simp [rejectPage]
@[simp] theorem report_rejectPage (r : RejectReason) : (rejectPage r s).relay.report = s.relay.report := by
  simp [rejectPage]
@[simp] theorem mailbox_rejectPage (r : RejectReason) : (rejectPage r s).mgmt.mailbox = s.mgmt.mailbox := by
  simp [rejectPage]
@[simp] theorem wait_rejectPage (r : RejectReason) : (rejectPage r s).mgmt.wait = s.mgmt.wait := by simp [rejectPage]
@[simp] theorem transfer_rejectPage (r : RejectReason) : (rejectPage r s).mgmt.transfer = s.mgmt.transfer := by
  simp [rejectPage]
@[simp] theorem buffer_rejectPage (r : RejectReason) : (rejectPage r s).mgmt.buffer = s.mgmt.buffer := by
  simp [rejectPage]
@[simp] theorem fetchFactory_rejectPage (r : RejectReason) :
    (rejectPage r s).mgmt.fetchFactory = s.mgmt.fetchFactory := by
  simp [rejectPage]
@[simp] theorem idle_rejectPage (r : RejectReason) : (rejectPage r s).mgmt.idle = s.mgmt.idle := by simp [rejectPage]
@[simp] theorem mask_rejectPage (r : RejectReason) : (rejectPage r s).mgmt.mask = s.mgmt.mask := by simp [rejectPage]
@[simp] theorem restart_rejectPage (r : RejectReason) : (rejectPage r s).mgmt.restart = s.mgmt.restart := by
  simp [rejectPage]

/-! ### Record pages -/

@[simp] theorem now_changeRecord (p : Nat) (c : Content) : (changeRecord p c s).now = s.now := by rfl
@[simp] theorem powered_changeRecord (p : Nat) (c : Content) : (changeRecord p c s).powered = s.powered := by rfl
@[simp] theorem link_changeRecord (p : Nat) (c : Content) : (changeRecord p c s).link = s.link := by rfl
@[simp] theorem up_changeRecord (p : Nat) (c : Content) : (changeRecord p c s).up = s.up := by rfl
@[simp] theorem field_changeRecord (p : Nat) (c : Content) : (changeRecord p c s).field = s.field := by rfl
@[simp] theorem cyc_changeRecord (p : Nat) (c : Content) : (changeRecord p c s).cyc = s.cyc := by rfl
@[simp] theorem arb_changeRecord (p : Nat) (c : Content) : (changeRecord p c s).arb = s.arb := by rfl
@[simp] theorem relay_changeRecord (p : Nat) (c : Content) : (changeRecord p c s).relay = s.relay := by rfl
@[simp] theorem chans_changeRecord (p : Nat) (c : Content) : (changeRecord p c s).chans = s.chans := by rfl
@[simp] theorem demand_changeRecord (p : Nat) (c : Content) : (changeRecord p c s).demand = s.demand := by rfl
@[simp] theorem seq_changeRecord (p : Nat) (c : Content) : (changeRecord p c s).seq = s.seq := by rfl
@[simp] theorem flue_changeRecord (p : Nat) (c : Content) : (changeRecord p c s).flue = s.flue := by rfl
@[simp] theorem frost_changeRecord (p : Nat) (c : Content) : (changeRecord p c s).frost = s.frost := by rfl
@[simp] theorem lock_changeRecord (p : Nat) (c : Content) : (changeRecord p c s).lock = s.lock := by rfl
@[simp] theorem mgmt_changeRecord (p : Nat) (c : Content) : (changeRecord p c s).mgmt = s.mgmt := by rfl
@[simp] theorem order_changeRecord (p : Nat) (c : Content) : (changeRecord p c s).order = s.order := by rfl
@[simp] theorem freeIndex_changeRecord (p : Nat) (c : Content) : (changeRecord p c s).freeIndex = s.freeIndex := by rfl
@[simp] theorem pending_changeRecord (p : Nat) (c : Content) : (changeRecord p c s).pending = s.pending := by rfl
@[simp] theorem stored_changeRecord (p : Nat) (c : Content) : (changeRecord p c s).store.stored = s.store.stored := by
  rfl
@[simp] theorem factory_changeRecord (p : Nat) (c : Content) :
    (changeRecord p c s).store.factory = s.store.factory := by
  rfl
@[simp] theorem op_changeRecord (p : Nat) (c : Content) : (changeRecord p c s).store.op = s.store.op := by rfl
@[simp] theorem sweepClaim_changeRecord (p : Nat) (c : Content) :
    (changeRecord p c s).store.sweepClaim = s.store.sweepClaim := by
  rfl
@[simp] theorem mgmtClaim_changeRecord (p : Nat) (c : Content) :
    (changeRecord p c s).store.mgmtClaim = s.store.mgmtClaim := by
  rfl
@[simp] theorem sweepPos_changeRecord (p : Nat) (c : Content) :
    (changeRecord p c s).store.sweepPos = s.store.sweepPos := by
  rfl
@[simp] theorem sweepTimer_changeRecord (p : Nat) (c : Content) :
    (changeRecord p c s).store.sweepTimer = s.store.sweepTimer := by
  rfl
@[simp] theorem heldIdentity_changeRecord (p : Nat) (c : Content) :
    (changeRecord p c s).store.heldIdentity = s.store.heldIdentity := by
  rfl

/-! ### Page 14 -/

@[simp] theorem now_changeLock (f : LockPage → LockPage) : (changeLock f s).now = s.now := by rfl
@[simp] theorem powered_changeLock (f : LockPage → LockPage) : (changeLock f s).powered = s.powered := by rfl
@[simp] theorem link_changeLock (f : LockPage → LockPage) : (changeLock f s).link = s.link := by rfl
@[simp] theorem up_changeLock (f : LockPage → LockPage) : (changeLock f s).up = s.up := by rfl
@[simp] theorem field_changeLock (f : LockPage → LockPage) : (changeLock f s).field = s.field := by rfl
@[simp] theorem cyc_changeLock (f : LockPage → LockPage) : (changeLock f s).cyc = s.cyc := by rfl
@[simp] theorem arb_changeLock (f : LockPage → LockPage) : (changeLock f s).arb = s.arb := by rfl
@[simp] theorem relay_changeLock (f : LockPage → LockPage) : (changeLock f s).relay = s.relay := by rfl
@[simp] theorem chans_changeLock (f : LockPage → LockPage) : (changeLock f s).chans = s.chans := by rfl
@[simp] theorem demand_changeLock (f : LockPage → LockPage) : (changeLock f s).demand = s.demand := by rfl
@[simp] theorem seq_changeLock (f : LockPage → LockPage) : (changeLock f s).seq = s.seq := by rfl
@[simp] theorem flue_changeLock (f : LockPage → LockPage) : (changeLock f s).flue = s.flue := by rfl
@[simp] theorem frost_changeLock (f : LockPage → LockPage) : (changeLock f s).frost = s.frost := by rfl
@[simp] theorem lock_changeLock (f : LockPage → LockPage) : (changeLock f s).lock = s.lock := by rfl
@[simp] theorem mgmt_changeLock (f : LockPage → LockPage) : (changeLock f s).mgmt = s.mgmt := by rfl
@[simp] theorem order_changeLock (f : LockPage → LockPage) : (changeLock f s).order = s.order := by rfl
@[simp] theorem freeIndex_changeLock (f : LockPage → LockPage) : (changeLock f s).freeIndex = s.freeIndex := by rfl
@[simp] theorem pending_changeLock (f : LockPage → LockPage) : (changeLock f s).pending = s.pending := by rfl
@[simp] theorem stored_changeLock (f : LockPage → LockPage) : (changeLock f s).store.stored = s.store.stored := by rfl
@[simp] theorem factory_changeLock (f : LockPage → LockPage) : (changeLock f s).store.factory = s.store.factory := by
  rfl
@[simp] theorem op_changeLock (f : LockPage → LockPage) : (changeLock f s).store.op = s.store.op := by rfl
@[simp] theorem sweepClaim_changeLock (f : LockPage → LockPage) :
    (changeLock f s).store.sweepClaim = s.store.sweepClaim := by
  rfl
@[simp] theorem mgmtClaim_changeLock (f : LockPage → LockPage) :
    (changeLock f s).store.mgmtClaim = s.store.mgmtClaim := by
  rfl
@[simp] theorem sweepPos_changeLock (f : LockPage → LockPage) : (changeLock f s).store.sweepPos = s.store.sweepPos := by
  rfl
@[simp] theorem sweepTimer_changeLock (f : LockPage → LockPage) :
    (changeLock f s).store.sweepTimer = s.store.sweepTimer := by
  rfl
@[simp] theorem heldIdentity_changeLock (f : LockPage → LockPage) :
    (changeLock f s).store.heldIdentity = s.store.heldIdentity := by
  rfl

/-! ### A summary -/

@[simp] theorem now_placeSummary (x : Summary) : (placeSummary x s).now = s.now := by rfl
@[simp] theorem powered_placeSummary (x : Summary) : (placeSummary x s).powered = s.powered := by rfl
@[simp] theorem link_placeSummary (x : Summary) : (placeSummary x s).link = s.link := by rfl
@[simp] theorem up_placeSummary (x : Summary) : (placeSummary x s).up = s.up := by rfl
@[simp] theorem field_placeSummary (x : Summary) : (placeSummary x s).field = s.field := by rfl
@[simp] theorem cyc_placeSummary (x : Summary) : (placeSummary x s).cyc = s.cyc := by rfl
@[simp] theorem arb_placeSummary (x : Summary) : (placeSummary x s).arb = s.arb := by rfl
@[simp] theorem relay_placeSummary (x : Summary) : (placeSummary x s).relay = s.relay := by rfl
@[simp] theorem chans_placeSummary (x : Summary) : (placeSummary x s).chans = s.chans := by rfl
@[simp] theorem demand_placeSummary (x : Summary) : (placeSummary x s).demand = s.demand := by rfl
@[simp] theorem seq_placeSummary (x : Summary) : (placeSummary x s).seq = s.seq := by rfl
@[simp] theorem flue_placeSummary (x : Summary) : (placeSummary x s).flue = s.flue := by rfl
@[simp] theorem frost_placeSummary (x : Summary) : (placeSummary x s).frost = s.frost := by rfl
@[simp] theorem lock_placeSummary (x : Summary) : (placeSummary x s).lock = s.lock := by rfl
@[simp] theorem mgmt_placeSummary (x : Summary) : (placeSummary x s).mgmt = s.mgmt := by rfl
@[simp] theorem order_placeSummary (x : Summary) : (placeSummary x s).order = s.order := by rfl
@[simp] theorem freeIndex_placeSummary (x : Summary) : (placeSummary x s).freeIndex = s.freeIndex := by rfl
@[simp] theorem pending_placeSummary (x : Summary) : (placeSummary x s).pending = s.pending := by rfl
@[simp] theorem stored_placeSummary (x : Summary) : (placeSummary x s).store.stored = s.store.stored := by rfl
@[simp] theorem factory_placeSummary (x : Summary) : (placeSummary x s).store.factory = s.store.factory := by rfl
@[simp] theorem op_placeSummary (x : Summary) : (placeSummary x s).store.op = s.store.op := by rfl
@[simp] theorem sweepClaim_placeSummary (x : Summary) : (placeSummary x s).store.sweepClaim = s.store.sweepClaim := by
  rfl
@[simp] theorem mgmtClaim_placeSummary (x : Summary) : (placeSummary x s).store.mgmtClaim = s.store.mgmtClaim := by rfl
@[simp] theorem sweepPos_placeSummary (x : Summary) : (placeSummary x s).store.sweepPos = s.store.sweepPos := by rfl
@[simp] theorem sweepTimer_placeSummary (x : Summary) : (placeSummary x s).store.sweepTimer = s.store.sweepTimer := by
  rfl
@[simp] theorem heldIdentity_placeSummary (x : Summary) :
    (placeSummary x s).store.heldIdentity = s.store.heldIdentity := by
  rfl

/-! ### The empty history -/

@[simp] theorem now_emptyHistory : (emptyHistory s).now = s.now := by simp [emptyHistory]
@[simp] theorem powered_emptyHistory : (emptyHistory s).powered = s.powered := by simp [emptyHistory]
@[simp] theorem link_emptyHistory : (emptyHistory s).link = s.link := by simp [emptyHistory]
@[simp] theorem up_emptyHistory : (emptyHistory s).up = s.up := by simp [emptyHistory]
@[simp] theorem field_emptyHistory : (emptyHistory s).field = s.field := by simp [emptyHistory]
@[simp] theorem cyc_emptyHistory : (emptyHistory s).cyc = s.cyc := by simp [emptyHistory]
@[simp] theorem arb_emptyHistory : (emptyHistory s).arb = s.arb := by simp [emptyHistory]
@[simp] theorem relay_emptyHistory : (emptyHistory s).relay = s.relay := by simp [emptyHistory]
@[simp] theorem chans_emptyHistory : (emptyHistory s).chans = s.chans := by simp [emptyHistory]
@[simp] theorem demand_emptyHistory : (emptyHistory s).demand = s.demand := by simp [emptyHistory]
@[simp] theorem seq_emptyHistory : (emptyHistory s).seq = s.seq := by simp [emptyHistory]
@[simp] theorem flue_emptyHistory : (emptyHistory s).flue = s.flue := by simp [emptyHistory]
@[simp] theorem frost_emptyHistory : (emptyHistory s).frost = s.frost := by simp [emptyHistory]
@[simp] theorem lock_emptyHistory : (emptyHistory s).lock = s.lock := by simp [emptyHistory]
@[simp] theorem mgmt_emptyHistory : (emptyHistory s).mgmt = s.mgmt := by simp [emptyHistory]
@[simp] theorem order_emptyHistory : (emptyHistory s).order = s.order := by simp [emptyHistory]
@[simp] theorem freeIndex_emptyHistory : (emptyHistory s).freeIndex = s.freeIndex := by simp [emptyHistory]
@[simp] theorem pending_emptyHistory : (emptyHistory s).pending = s.pending := by simp [emptyHistory]
@[simp] theorem stored_emptyHistory : (emptyHistory s).store.stored = s.store.stored := by simp [emptyHistory]
@[simp] theorem factory_emptyHistory : (emptyHistory s).store.factory = s.store.factory := by simp [emptyHistory]
@[simp] theorem op_emptyHistory : (emptyHistory s).store.op = s.store.op := by simp [emptyHistory]
@[simp] theorem sweepClaim_emptyHistory : (emptyHistory s).store.sweepClaim = s.store.sweepClaim := by
  simp [emptyHistory]
@[simp] theorem mgmtClaim_emptyHistory : (emptyHistory s).store.mgmtClaim = s.store.mgmtClaim := by simp [emptyHistory]
@[simp] theorem sweepPos_emptyHistory : (emptyHistory s).store.sweepPos = s.store.sweepPos := by simp [emptyHistory]
@[simp] theorem sweepTimer_emptyHistory : (emptyHistory s).store.sweepTimer = s.store.sweepTimer := by
  simp [emptyHistory]
@[simp] theorem heldIdentity_emptyHistory : (emptyHistory s).store.heldIdentity = s.store.heldIdentity := by
  simp [emptyHistory]

/-! ### A lockout decision -/

@[simp] theorem now_lockDecision (o : AttemptEnd) (n : Nat) : (lockDecision o n s).now = s.now := by
  unfold lockDecision; split <;> simp
@[simp] theorem powered_lockDecision (o : AttemptEnd) (n : Nat) : (lockDecision o n s).powered = s.powered := by
  unfold lockDecision; split <;> simp
@[simp] theorem link_lockDecision (o : AttemptEnd) (n : Nat) : (lockDecision o n s).link = s.link := by
  unfold lockDecision; split <;> simp
@[simp] theorem up_lockDecision (o : AttemptEnd) (n : Nat) : (lockDecision o n s).up = s.up := by
  unfold lockDecision; split <;> simp
@[simp] theorem field_lockDecision (o : AttemptEnd) (n : Nat) : (lockDecision o n s).field = s.field := by
  unfold lockDecision; split <;> simp
@[simp] theorem cyc_lockDecision (o : AttemptEnd) (n : Nat) : (lockDecision o n s).cyc = s.cyc := by
  unfold lockDecision; split <;> simp
@[simp] theorem arb_lockDecision (o : AttemptEnd) (n : Nat) : (lockDecision o n s).arb = s.arb := by
  unfold lockDecision; split <;> simp
@[simp] theorem relay_lockDecision (o : AttemptEnd) (n : Nat) : (lockDecision o n s).relay = s.relay := by
  unfold lockDecision; split <;> simp
@[simp] theorem chans_lockDecision (o : AttemptEnd) (n : Nat) : (lockDecision o n s).chans = s.chans := by
  unfold lockDecision; split <;> simp
@[simp] theorem demand_lockDecision (o : AttemptEnd) (n : Nat) : (lockDecision o n s).demand = s.demand := by
  unfold lockDecision; split <;> simp
@[simp] theorem seq_lockDecision (o : AttemptEnd) (n : Nat) : (lockDecision o n s).seq = s.seq := by
  unfold lockDecision; split <;> simp
@[simp] theorem flue_lockDecision (o : AttemptEnd) (n : Nat) : (lockDecision o n s).flue = s.flue := by
  unfold lockDecision; split <;> simp
@[simp] theorem frost_lockDecision (o : AttemptEnd) (n : Nat) : (lockDecision o n s).frost = s.frost := by
  unfold lockDecision; split <;> simp
@[simp] theorem lock_lockDecision (o : AttemptEnd) (n : Nat) : (lockDecision o n s).lock = s.lock := by
  unfold lockDecision; split <;> simp
@[simp] theorem mgmt_lockDecision (o : AttemptEnd) (n : Nat) : (lockDecision o n s).mgmt = s.mgmt := by
  unfold lockDecision; split <;> simp
@[simp] theorem order_lockDecision (o : AttemptEnd) (n : Nat) : (lockDecision o n s).order = s.order := by
  unfold lockDecision; split <;> simp
@[simp] theorem freeIndex_lockDecision (o : AttemptEnd) (n : Nat) : (lockDecision o n s).freeIndex = s.freeIndex := by
  unfold lockDecision; split <;> simp
@[simp] theorem pending_lockDecision (o : AttemptEnd) (n : Nat) : (lockDecision o n s).pending = s.pending := by
  unfold lockDecision; split <;> simp
@[simp] theorem stored_lockDecision (o : AttemptEnd) (n : Nat) :
    (lockDecision o n s).store.stored = s.store.stored := by
  unfold lockDecision; split <;> simp
@[simp] theorem factory_lockDecision (o : AttemptEnd) (n : Nat) :
    (lockDecision o n s).store.factory = s.store.factory := by
  unfold lockDecision; split <;> simp
@[simp] theorem op_lockDecision (o : AttemptEnd) (n : Nat) : (lockDecision o n s).store.op = s.store.op := by
  unfold lockDecision; split <;> simp
@[simp] theorem sweepClaim_lockDecision (o : AttemptEnd) (n : Nat) :
    (lockDecision o n s).store.sweepClaim = s.store.sweepClaim := by
  unfold lockDecision; split <;> simp
@[simp] theorem mgmtClaim_lockDecision (o : AttemptEnd) (n : Nat) :
    (lockDecision o n s).store.mgmtClaim = s.store.mgmtClaim := by
  unfold lockDecision; split <;> simp
@[simp] theorem sweepPos_lockDecision (o : AttemptEnd) (n : Nat) :
    (lockDecision o n s).store.sweepPos = s.store.sweepPos := by
  unfold lockDecision; split <;> simp
@[simp] theorem sweepTimer_lockDecision (o : AttemptEnd) (n : Nat) :
    (lockDecision o n s).store.sweepTimer = s.store.sweepTimer := by
  unfold lockDecision; split <;> simp
@[simp] theorem heldIdentity_lockDecision (o : AttemptEnd) (n : Nat) :
    (lockDecision o n s).store.heldIdentity = s.store.heldIdentity := by
  unfold lockDecision; split <;> simp

/-! ### The proof timer -/

@[simp] theorem now_proofTest : (proofTest s).now = s.now := by unfold proofTest; (repeat' split) <;> simp
@[simp] theorem powered_proofTest : (proofTest s).powered = s.powered := by unfold proofTest; (repeat' split) <;> simp
@[simp] theorem link_proofTest : (proofTest s).link = s.link := by unfold proofTest; (repeat' split) <;> simp
@[simp] theorem up_proofTest : (proofTest s).up = s.up := by unfold proofTest; (repeat' split) <;> simp
@[simp] theorem field_proofTest : (proofTest s).field = s.field := by unfold proofTest; (repeat' split) <;> simp
@[simp] theorem cyc_proofTest : (proofTest s).cyc = s.cyc := by unfold proofTest; (repeat' split) <;> simp
@[simp] theorem arb_proofTest : (proofTest s).arb = s.arb := by unfold proofTest; (repeat' split) <;> simp
@[simp] theorem relay_proofTest : (proofTest s).relay = s.relay := by unfold proofTest; (repeat' split) <;> simp
@[simp] theorem chans_proofTest : (proofTest s).chans = s.chans := by unfold proofTest; (repeat' split) <;> simp
@[simp] theorem demand_proofTest : (proofTest s).demand = s.demand := by unfold proofTest; (repeat' split) <;> simp
@[simp] theorem seq_proofTest : (proofTest s).seq = s.seq := by unfold proofTest; (repeat' split) <;> simp
@[simp] theorem frost_proofTest : (proofTest s).frost = s.frost := by unfold proofTest; (repeat' split) <;> simp
@[simp] theorem lock_proofTest : (proofTest s).lock = s.lock := by unfold proofTest; (repeat' split) <;> simp
@[simp] theorem store_proofTest : (proofTest s).store = s.store := by unfold proofTest; (repeat' split) <;> simp
@[simp] theorem mgmt_proofTest : (proofTest s).mgmt = s.mgmt := by unfold proofTest; (repeat' split) <;> simp
@[simp] theorem order_proofTest : (proofTest s).order = s.order := by unfold proofTest; (repeat' split) <;> simp
@[simp] theorem freeIndex_proofTest : (proofTest s).freeIndex = s.freeIndex := by
  unfold proofTest; (repeat' split) <;> simp
@[simp] theorem pending_proofTest : (proofTest s).pending = s.pending := by unfold proofTest; (repeat' split) <;> simp

/-! ### The loss timer -/

@[simp] theorem now_lossTest : (lossTest s).now = s.now := by unfold lossTest; (repeat' split) <;> simp
@[simp] theorem powered_lossTest : (lossTest s).powered = s.powered := by unfold lossTest; (repeat' split) <;> simp
@[simp] theorem link_lossTest : (lossTest s).link = s.link := by unfold lossTest; (repeat' split) <;> simp
@[simp] theorem up_lossTest : (lossTest s).up = s.up := by unfold lossTest; (repeat' split) <;> simp
@[simp] theorem field_lossTest : (lossTest s).field = s.field := by unfold lossTest; (repeat' split) <;> simp
@[simp] theorem cyc_lossTest : (lossTest s).cyc = s.cyc := by unfold lossTest; (repeat' split) <;> simp
@[simp] theorem arb_lossTest : (lossTest s).arb = s.arb := by unfold lossTest; (repeat' split) <;> simp
@[simp] theorem relay_lossTest : (lossTest s).relay = s.relay := by unfold lossTest; (repeat' split) <;> simp
@[simp] theorem chans_lossTest : (lossTest s).chans = s.chans := by unfold lossTest; (repeat' split) <;> simp
@[simp] theorem demand_lossTest : (lossTest s).demand = s.demand := by unfold lossTest; (repeat' split) <;> simp
@[simp] theorem seq_lossTest : (lossTest s).seq = s.seq := by unfold lossTest; (repeat' split) <;> simp
@[simp] theorem frost_lossTest : (lossTest s).frost = s.frost := by unfold lossTest; (repeat' split) <;> simp
@[simp] theorem lock_lossTest : (lossTest s).lock = s.lock := by unfold lossTest; (repeat' split) <;> simp
@[simp] theorem store_lossTest : (lossTest s).store = s.store := by unfold lossTest; (repeat' split) <;> simp
@[simp] theorem mgmt_lossTest : (lossTest s).mgmt = s.mgmt := by unfold lossTest; (repeat' split) <;> simp
@[simp] theorem order_lossTest : (lossTest s).order = s.order := by unfold lossTest; (repeat' split) <;> simp
@[simp] theorem freeIndex_lossTest : (lossTest s).freeIndex = s.freeIndex := by
  unfold lossTest; (repeat' split) <;> simp
@[simp] theorem pending_lossTest : (lossTest s).pending = s.pending := by unfold lossTest; (repeat' split) <;> simp

/-! ### The Sequencer slot at a departure -/

@[simp] theorem now_dropValveOpen : (dropValveOpen s).now = s.now := by unfold dropValveOpen; (repeat' split) <;> rfl
@[simp] theorem powered_dropValveOpen : (dropValveOpen s).powered = s.powered := by
  unfold dropValveOpen; (repeat' split) <;> rfl
@[simp] theorem link_dropValveOpen : (dropValveOpen s).link = s.link := by unfold dropValveOpen; (repeat' split) <;> rfl
@[simp] theorem up_dropValveOpen : (dropValveOpen s).up = s.up := by unfold dropValveOpen; (repeat' split) <;> rfl
@[simp] theorem cyc_dropValveOpen : (dropValveOpen s).cyc = s.cyc := by unfold dropValveOpen; (repeat' split) <;> rfl
@[simp] theorem relay_dropValveOpen : (dropValveOpen s).relay = s.relay := by
  unfold dropValveOpen; (repeat' split) <;> rfl
@[simp] theorem chans_dropValveOpen : (dropValveOpen s).chans = s.chans := by
  unfold dropValveOpen; (repeat' split) <;> rfl
@[simp] theorem demand_dropValveOpen : (dropValveOpen s).demand = s.demand := by
  unfold dropValveOpen; (repeat' split) <;> rfl
@[simp] theorem seq_dropValveOpen : (dropValveOpen s).seq = s.seq := by unfold dropValveOpen; (repeat' split) <;> rfl
@[simp] theorem flue_dropValveOpen : (dropValveOpen s).flue = s.flue := by unfold dropValveOpen; (repeat' split) <;> rfl
@[simp] theorem frost_dropValveOpen : (dropValveOpen s).frost = s.frost := by
  unfold dropValveOpen; (repeat' split) <;> rfl
@[simp] theorem lock_dropValveOpen : (dropValveOpen s).lock = s.lock := by unfold dropValveOpen; (repeat' split) <;> rfl
@[simp] theorem store_dropValveOpen : (dropValveOpen s).store = s.store := by
  unfold dropValveOpen; (repeat' split) <;> rfl
@[simp] theorem mgmt_dropValveOpen : (dropValveOpen s).mgmt = s.mgmt := by unfold dropValveOpen; (repeat' split) <;> rfl
@[simp] theorem order_dropValveOpen : (dropValveOpen s).order = s.order := by
  unfold dropValveOpen; (repeat' split) <;> rfl
@[simp] theorem freeIndex_dropValveOpen : (dropValveOpen s).freeIndex = s.freeIndex := by
  unfold dropValveOpen; (repeat' split) <;> rfl
@[simp] theorem pending_dropValveOpen : (dropValveOpen s).pending = s.pending := by
  unfold dropValveOpen; (repeat' split) <;> rfl
@[simp] theorem pendingSet_dropValveOpen : (dropValveOpen s).arb.pending = s.arb.pending := by
  unfold dropValveOpen; (repeat' split) <;> rfl
@[simp] theorem markWaiting_dropValveOpen : (dropValveOpen s).arb.markWaiting = s.arb.markWaiting := by
  unfold dropValveOpen; (repeat' split) <;> rfl
@[simp] theorem markOnLine_dropValveOpen : (dropValveOpen s).arb.markOnLine = s.arb.markOnLine := by
  unfold dropValveOpen; (repeat' split) <;> rfl
@[simp] theorem relaySlot_dropValveOpen : (dropValveOpen s).arb.relaySlot = s.arb.relaySlot := by
  unfold dropValveOpen; (repeat' split) <;> rfl
@[simp] theorem frostQ_dropValveOpen : (dropValveOpen s).arb.frostQ = s.arb.frostQ := by
  unfold dropValveOpen; (repeat' split) <;> rfl
@[simp] theorem fieldLine_dropValveOpen : (dropValveOpen s).field.line = s.field.line := by
  unfold dropValveOpen; (repeat' split) <;> rfl
@[simp] theorem fieldGap_dropValveOpen : (dropValveOpen s).field.gap = s.field.gap := by
  unfold dropValveOpen; (repeat' split) <;> rfl

/-! ### The move to a state -/

@[simp] theorem now_moveTo (st : SupState) : (moveTo st s).now = s.now := by unfold moveTo; dsimp only; split <;> simp
@[simp] theorem powered_moveTo (st : SupState) : (moveTo st s).powered = s.powered := by
  unfold moveTo; dsimp only; split <;> simp
@[simp] theorem link_moveTo (st : SupState) : (moveTo st s).link = s.link := by
  unfold moveTo; dsimp only; split <;> simp
@[simp] theorem up_moveTo (st : SupState) : (moveTo st s).up = s.up := by unfold moveTo; dsimp only; split <;> simp
@[simp] theorem cyc_moveTo (st : SupState) : (moveTo st s).cyc = s.cyc := by unfold moveTo; dsimp only; split <;> simp
@[simp] theorem relay_moveTo (st : SupState) : (moveTo st s).relay = s.relay := by
  unfold moveTo; dsimp only; split <;> simp
@[simp] theorem chans_moveTo (st : SupState) : (moveTo st s).chans = s.chans := by
  unfold moveTo; dsimp only; split <;> simp
@[simp] theorem demand_moveTo (st : SupState) : (moveTo st s).demand = s.demand := by
  unfold moveTo; dsimp only; split <;> simp
@[simp] theorem frost_moveTo (st : SupState) : (moveTo st s).frost = s.frost := by
  unfold moveTo; dsimp only; split <;> simp
@[simp] theorem lock_moveTo (st : SupState) : (moveTo st s).lock = s.lock := by
  unfold moveTo; dsimp only; split <;> simp
@[simp] theorem store_moveTo (st : SupState) : (moveTo st s).store = s.store := by
  unfold moveTo; dsimp only; split <;> simp
@[simp] theorem mgmt_moveTo (st : SupState) : (moveTo st s).mgmt = s.mgmt := by
  unfold moveTo; dsimp only; split <;> simp
@[simp] theorem order_moveTo (st : SupState) : (moveTo st s).order = s.order := by
  unfold moveTo; dsimp only; split <;> simp
@[simp] theorem freeIndex_moveTo (st : SupState) : (moveTo st s).freeIndex = s.freeIndex := by
  unfold moveTo; dsimp only; split <;> simp
@[simp] theorem pending_moveTo (st : SupState) : (moveTo st s).pending = s.pending := by
  unfold moveTo; dsimp only; split <;> simp
@[simp] theorem pendingSet_moveTo (st : SupState) : (moveTo st s).arb.pending = s.arb.pending := by
  unfold moveTo; dsimp only; split <;> simp
@[simp] theorem failCount_moveTo (st : SupState) : (moveTo st s).seq.failCount = s.seq.failCount := by
  unfold moveTo; dsimp only; split <;> simp
@[simp] theorem current_moveTo (st : SupState) : (moveTo st s).seq.current = s.seq.current := by
  unfold moveTo; dsimp only; split <;> simp
@[simp] theorem rePlace_moveTo (st : SupState) : (moveTo st s).seq.rePlace = s.seq.rePlace := by
  unfold moveTo; dsimp only; split <;> simp
@[simp] theorem markWaiting_moveTo (st : SupState) : (moveTo st s).arb.markWaiting = s.arb.markWaiting := by
  unfold moveTo; dsimp only; split <;> simp
@[simp] theorem markOnLine_moveTo (st : SupState) : (moveTo st s).arb.markOnLine = s.arb.markOnLine := by
  unfold moveTo; dsimp only; split <;> simp
@[simp] theorem relaySlot_moveTo (st : SupState) : (moveTo st s).arb.relaySlot = s.arb.relaySlot := by
  unfold moveTo; dsimp only; split <;> simp
@[simp] theorem frostQ_moveTo (st : SupState) : (moveTo st s).arb.frostQ = s.arb.frostQ := by
  unfold moveTo; dsimp only; split <;> simp
@[simp] theorem fieldLine_moveTo (st : SupState) : (moveTo st s).field.line = s.field.line := by
  unfold moveTo; dsimp only; split <;> simp
@[simp] theorem fieldGap_moveTo (st : SupState) : (moveTo st s).field.gap = s.field.gap := by
  unfold moveTo; dsimp only; split <;> simp

/-! ### The entry actions -/

@[simp] theorem now_entryActions (st : SupState) : (entryActions st s).now = s.now := by
  cases st <;> simp [entryActions]
@[simp] theorem powered_entryActions (st : SupState) : (entryActions st s).powered = s.powered := by
  cases st <;> simp [entryActions]
@[simp] theorem link_entryActions (st : SupState) : (entryActions st s).link = s.link := by
  cases st <;> simp [entryActions]
@[simp] theorem up_entryActions (st : SupState) : (entryActions st s).up = s.up := by cases st <;> simp [entryActions]
@[simp] theorem field_entryActions (st : SupState) : (entryActions st s).field = s.field := by
  cases st <;> simp [entryActions]
@[simp] theorem cyc_entryActions (st : SupState) : (entryActions st s).cyc = s.cyc := by
  cases st <;> simp [entryActions]
@[simp] theorem arb_entryActions (st : SupState) : (entryActions st s).arb = s.arb := by
  cases st <;> simp [entryActions]
@[simp] theorem relay_entryActions (st : SupState) : (entryActions st s).relay = s.relay := by
  cases st <;> simp [entryActions]
@[simp] theorem chans_entryActions (st : SupState) : (entryActions st s).chans = s.chans := by
  cases st <;> simp [entryActions]
@[simp] theorem demand_entryActions (st : SupState) : (entryActions st s).demand = s.demand := by
  cases st <;> simp [entryActions]
@[simp] theorem frost_entryActions (st : SupState) : (entryActions st s).frost = s.frost := by
  cases st <;> simp [entryActions]
@[simp] theorem lock_entryActions (st : SupState) : (entryActions st s).lock = s.lock := by
  cases st <;> simp [entryActions]
@[simp] theorem store_entryActions (st : SupState) : (entryActions st s).store = s.store := by
  cases st <;> simp [entryActions]
@[simp] theorem mgmt_entryActions (st : SupState) : (entryActions st s).mgmt = s.mgmt := by
  cases st <;> simp [entryActions]
@[simp] theorem order_entryActions (st : SupState) : (entryActions st s).order = s.order := by
  cases st <;> simp [entryActions]
@[simp] theorem freeIndex_entryActions (st : SupState) : (entryActions st s).freeIndex = s.freeIndex := by
  cases st <;> simp [entryActions]
@[simp] theorem pending_entryActions (st : SupState) : (entryActions st s).pending = s.pending := by
  cases st <;> simp [entryActions]
@[simp] theorem sup_entryActions (st : SupState) : (entryActions st s).seq.sup = s.seq.sup := by
  cases st <;> simp [entryActions]
@[simp] theorem frc_entryActions (st : SupState) : (entryActions st s).seq.frc = s.seq.frc := by
  cases st <;> simp [entryActions]
@[simp] theorem lkl_entryActions (st : SupState) : (entryActions st s).seq.lkl = s.seq.lkl := by
  cases st <;> simp [entryActions]
@[simp] theorem failCount_entryActions (st : SupState) : (entryActions st s).seq.failCount = s.seq.failCount := by
  cases st <;> simp [entryActions]
@[simp] theorem current_entryActions (st : SupState) : (entryActions st s).seq.current = s.seq.current := by
  cases st <;> simp [entryActions]
@[simp] theorem heater_entryActions (st : SupState) : (entryActions st s).seq.heater = s.seq.heater := by
  cases st <;> simp [entryActions]
@[simp] theorem timers_entryActions (st : SupState) : (entryActions st s).seq.timers = s.seq.timers := by
  cases st <;> simp [entryActions]
@[simp] theorem rePlace_entryActions (st : SupState) : (entryActions st s).seq.rePlace = s.seq.rePlace := by
  cases st <;> simp [entryActions]
@[simp] theorem flameClear_entryActions (st : SupState) : (entryActions st s).seq.flameClear = s.seq.flameClear := by
  cases st <;> simp [entryActions]

/-! ### The called-for set -/

@[simp] theorem now_refreshSet : (refreshSet s).now = s.now := by unfold refreshSet; split <;> rfl
@[simp] theorem powered_refreshSet : (refreshSet s).powered = s.powered := by unfold refreshSet; split <;> rfl
@[simp] theorem link_refreshSet : (refreshSet s).link = s.link := by unfold refreshSet; split <;> rfl
@[simp] theorem up_refreshSet : (refreshSet s).up = s.up := by unfold refreshSet; split <;> rfl
@[simp] theorem field_refreshSet : (refreshSet s).field = s.field := by unfold refreshSet; split <;> rfl
@[simp] theorem cyc_refreshSet : (refreshSet s).cyc = s.cyc := by unfold refreshSet; split <;> rfl
@[simp] theorem relay_refreshSet : (refreshSet s).relay = s.relay := by unfold refreshSet; split <;> rfl
@[simp] theorem chans_refreshSet : (refreshSet s).chans = s.chans := by unfold refreshSet; split <;> rfl
@[simp] theorem demand_refreshSet : (refreshSet s).demand = s.demand := by unfold refreshSet; split <;> rfl
@[simp] theorem flue_refreshSet : (refreshSet s).flue = s.flue := by unfold refreshSet; split <;> rfl
@[simp] theorem frost_refreshSet : (refreshSet s).frost = s.frost := by unfold refreshSet; split <;> rfl
@[simp] theorem lock_refreshSet : (refreshSet s).lock = s.lock := by unfold refreshSet; split <;> rfl
@[simp] theorem store_refreshSet : (refreshSet s).store = s.store := by unfold refreshSet; split <;> rfl
@[simp] theorem mgmt_refreshSet : (refreshSet s).mgmt = s.mgmt := by unfold refreshSet; split <;> rfl
@[simp] theorem order_refreshSet : (refreshSet s).order = s.order := by unfold refreshSet; split <;> rfl
@[simp] theorem freeIndex_refreshSet : (refreshSet s).freeIndex = s.freeIndex := by unfold refreshSet; split <;> rfl
@[simp] theorem pending_refreshSet : (refreshSet s).pending = s.pending := by unfold refreshSet; split <;> rfl
@[simp] theorem sup_refreshSet : (refreshSet s).seq.sup = s.seq.sup := by unfold refreshSet; split <;> rfl
@[simp] theorem frc_refreshSet : (refreshSet s).seq.frc = s.seq.frc := by unfold refreshSet; split <;> rfl
@[simp] theorem lkl_refreshSet : (refreshSet s).seq.lkl = s.seq.lkl := by unfold refreshSet; split <;> rfl
@[simp] theorem attempt_refreshSet : (refreshSet s).seq.attempt = s.seq.attempt := by unfold refreshSet; split <;> rfl
@[simp] theorem failCount_refreshSet : (refreshSet s).seq.failCount = s.seq.failCount := by
  unfold refreshSet; split <;> rfl
@[simp] theorem heater_refreshSet : (refreshSet s).seq.heater = s.seq.heater := by unfold refreshSet; split <;> rfl
@[simp] theorem timers_refreshSet : (refreshSet s).seq.timers = s.seq.timers := by unfold refreshSet; split <;> rfl
@[simp] theorem flameClear_refreshSet : (refreshSet s).seq.flameClear = s.seq.flameClear := by
  unfold refreshSet; split <;> rfl
@[simp] theorem inFlight_refreshSet : (refreshSet s).arb.inFlight = s.arb.inFlight := by
  unfold refreshSet; split <;> rfl
@[simp] theorem markWaiting_refreshSet : (refreshSet s).arb.markWaiting = s.arb.markWaiting := by
  unfold refreshSet; split <;> rfl
@[simp] theorem markOnLine_refreshSet : (refreshSet s).arb.markOnLine = s.arb.markOnLine := by
  unfold refreshSet; split <;> rfl
@[simp] theorem relaySlot_refreshSet : (refreshSet s).arb.relaySlot = s.arb.relaySlot := by
  unfold refreshSet; split <;> rfl
@[simp] theorem frostQ_refreshSet : (refreshSet s).arb.frostQ = s.arb.frostQ := by unfold refreshSet; split <;> rfl

/-! ### The entry to a state -/

@[simp] theorem now_enterState (st : SupState) : (enterState st s).now = s.now := by simp [enterState]
@[simp] theorem powered_enterState (st : SupState) : (enterState st s).powered = s.powered := by simp [enterState]
@[simp] theorem link_enterState (st : SupState) : (enterState st s).link = s.link := by simp [enterState]
@[simp] theorem up_enterState (st : SupState) : (enterState st s).up = s.up := by simp [enterState]
@[simp] theorem cyc_enterState (st : SupState) : (enterState st s).cyc = s.cyc := by simp [enterState]
@[simp] theorem relay_enterState (st : SupState) : (enterState st s).relay = s.relay := by simp [enterState]
@[simp] theorem chans_enterState (st : SupState) : (enterState st s).chans = s.chans := by simp [enterState]
@[simp] theorem demand_enterState (st : SupState) : (enterState st s).demand = s.demand := by simp [enterState]
@[simp] theorem frost_enterState (st : SupState) : (enterState st s).frost = s.frost := by simp [enterState]
@[simp] theorem lock_enterState (st : SupState) : (enterState st s).lock = s.lock := by simp [enterState]
@[simp] theorem store_enterState (st : SupState) : (enterState st s).store = s.store := by simp [enterState]
@[simp] theorem mgmt_enterState (st : SupState) : (enterState st s).mgmt = s.mgmt := by simp [enterState]
@[simp] theorem order_enterState (st : SupState) : (enterState st s).order = s.order := by simp [enterState]
@[simp] theorem freeIndex_enterState (st : SupState) : (enterState st s).freeIndex = s.freeIndex := by simp [enterState]
@[simp] theorem pending_enterState (st : SupState) : (enterState st s).pending = s.pending := by simp [enterState]
@[simp] theorem failCount_enterState (st : SupState) : (enterState st s).seq.failCount = s.seq.failCount := by
  simp [enterState]
@[simp] theorem markWaiting_enterState (st : SupState) : (enterState st s).arb.markWaiting = s.arb.markWaiting := by
  simp [enterState]
@[simp] theorem markOnLine_enterState (st : SupState) : (enterState st s).arb.markOnLine = s.arb.markOnLine := by
  simp [enterState]
@[simp] theorem relaySlot_enterState (st : SupState) : (enterState st s).arb.relaySlot = s.arb.relaySlot := by
  simp [enterState]
@[simp] theorem frostQ_enterState (st : SupState) : (enterState st s).arb.frostQ = s.arb.frostQ := by simp [enterState]
@[simp] theorem fieldLine_enterState (st : SupState) : (enterState st s).field.line = s.field.line := by
  simp [enterState]
@[simp] theorem fieldGap_enterState (st : SupState) : (enterState st s).field.gap = s.field.gap := by simp [enterState]

/-! ### A new attempt -/

@[simp] theorem now_beginAttempt : (beginAttempt s).now = s.now := by exact now_enterState _ _
@[simp] theorem powered_beginAttempt : (beginAttempt s).powered = s.powered := by exact powered_enterState _ _
@[simp] theorem link_beginAttempt : (beginAttempt s).link = s.link := by exact link_enterState _ _
@[simp] theorem up_beginAttempt : (beginAttempt s).up = s.up := by exact up_enterState _ _
@[simp] theorem cyc_beginAttempt : (beginAttempt s).cyc = s.cyc := by exact cyc_enterState _ _
@[simp] theorem relay_beginAttempt : (beginAttempt s).relay = s.relay := by exact relay_enterState _ _
@[simp] theorem chans_beginAttempt : (beginAttempt s).chans = s.chans := by exact chans_enterState _ _
@[simp] theorem demand_beginAttempt : (beginAttempt s).demand = s.demand := by exact demand_enterState _ _
@[simp] theorem frost_beginAttempt : (beginAttempt s).frost = s.frost := by exact frost_enterState _ _
@[simp] theorem lock_beginAttempt : (beginAttempt s).lock = s.lock := by exact lock_enterState _ _
@[simp] theorem mgmt_beginAttempt : (beginAttempt s).mgmt = s.mgmt := by exact mgmt_enterState _ _
@[simp] theorem order_beginAttempt : (beginAttempt s).order = s.order := by exact order_enterState _ _
@[simp] theorem freeIndex_beginAttempt : (beginAttempt s).freeIndex = s.freeIndex := by exact freeIndex_enterState _ _
@[simp] theorem pending_beginAttempt : (beginAttempt s).pending = s.pending := by exact pending_enterState _ _
@[simp] theorem failCount_beginAttempt : (beginAttempt s).seq.failCount = s.seq.failCount := by
  exact failCount_enterState _ _
@[simp] theorem markWaiting_beginAttempt : (beginAttempt s).arb.markWaiting = s.arb.markWaiting := by
  exact markWaiting_enterState _ _
@[simp] theorem markOnLine_beginAttempt : (beginAttempt s).arb.markOnLine = s.arb.markOnLine := by
  exact markOnLine_enterState _ _
@[simp] theorem relaySlot_beginAttempt : (beginAttempt s).arb.relaySlot = s.arb.relaySlot := by
  exact relaySlot_enterState _ _
@[simp] theorem frostQ_beginAttempt : (beginAttempt s).arb.frostQ = s.arb.frostQ := by exact frostQ_enterState _ _
@[simp] theorem fieldLine_beginAttempt : (beginAttempt s).field.line = s.field.line := by exact fieldLine_enterState _ _
@[simp] theorem fieldGap_beginAttempt : (beginAttempt s).field.gap = s.field.gap := by exact fieldGap_enterState _ _

theorem store_beginAttempt :
    (beginAttempt s).store = (changeLock (fun l => { l with nextSeq := (l.nextSeq + 1) % 65536 }) s).store :=
  store_enterState _ _

/-! ### A new attempt and the store -/

@[simp] theorem stored_beginAttempt : (beginAttempt s).store.stored = s.store.stored := by rw [store_beginAttempt]; simp
@[simp] theorem factory_beginAttempt : (beginAttempt s).store.factory = s.store.factory := by
  rw [store_beginAttempt]; simp
@[simp] theorem op_beginAttempt : (beginAttempt s).store.op = s.store.op := by rw [store_beginAttempt]; simp
@[simp] theorem sweepClaim_beginAttempt : (beginAttempt s).store.sweepClaim = s.store.sweepClaim := by
  rw [store_beginAttempt]; simp
@[simp] theorem mgmtClaim_beginAttempt : (beginAttempt s).store.mgmtClaim = s.store.mgmtClaim := by
  rw [store_beginAttempt]; simp
@[simp] theorem sweepPos_beginAttempt : (beginAttempt s).store.sweepPos = s.store.sweepPos := by
  rw [store_beginAttempt]; simp
@[simp] theorem sweepTimer_beginAttempt : (beginAttempt s).store.sweepTimer = s.store.sweepTimer := by
  rw [store_beginAttempt]; simp
@[simp] theorem heldIdentity_beginAttempt : (beginAttempt s).store.heldIdentity = s.store.heldIdentity := by
  rw [store_beginAttempt]; simp

/-! ### An outcome -/

@[simp] theorem now_decide (o : AttemptEnd) : (decide o s).now = s.now := by unfold decide; (repeat' split) <;> simp
@[simp] theorem powered_decide (o : AttemptEnd) : (decide o s).powered = s.powered := by
  unfold decide; (repeat' split) <;> simp
@[simp] theorem link_decide (o : AttemptEnd) : (decide o s).link = s.link := by unfold decide; (repeat' split) <;> simp
@[simp] theorem up_decide (o : AttemptEnd) : (decide o s).up = s.up := by unfold decide; (repeat' split) <;> simp
@[simp] theorem cyc_decide (o : AttemptEnd) : (decide o s).cyc = s.cyc := by unfold decide; (repeat' split) <;> simp
@[simp] theorem chans_decide (o : AttemptEnd) : (decide o s).chans = s.chans := by
  unfold decide; (repeat' split) <;> simp
@[simp] theorem demand_decide (o : AttemptEnd) : (decide o s).demand = s.demand := by
  unfold decide; (repeat' split) <;> simp
@[simp] theorem frost_decide (o : AttemptEnd) : (decide o s).frost = s.frost := by
  unfold decide; (repeat' split) <;> simp
@[simp] theorem lock_decide (o : AttemptEnd) : (decide o s).lock = s.lock := by unfold decide; (repeat' split) <;> simp
@[simp] theorem order_decide (o : AttemptEnd) : (decide o s).order = s.order := by
  unfold decide; (repeat' split) <;> simp
@[simp] theorem freeIndex_decide (o : AttemptEnd) : (decide o s).freeIndex = s.freeIndex := by
  unfold decide; (repeat' split) <;> simp
@[simp] theorem pending_decide (o : AttemptEnd) : (decide o s).pending = s.pending := by
  unfold decide; (repeat' split) <;> simp
@[simp] theorem markWaiting_decide (o : AttemptEnd) : (decide o s).arb.markWaiting = s.arb.markWaiting := by
  unfold decide; (repeat' split) <;> simp
@[simp] theorem markOnLine_decide (o : AttemptEnd) : (decide o s).arb.markOnLine = s.arb.markOnLine := by
  unfold decide; (repeat' split) <;> simp
@[simp] theorem relaySlot_decide (o : AttemptEnd) : (decide o s).arb.relaySlot = s.arb.relaySlot := by
  unfold decide; (repeat' split) <;> simp
@[simp] theorem frostQ_decide (o : AttemptEnd) : (decide o s).arb.frostQ = s.arb.frostQ := by
  unfold decide; (repeat' split) <;> simp
@[simp] theorem fieldLine_decide (o : AttemptEnd) : (decide o s).field.line = s.field.line := by
  unfold decide; (repeat' split) <;> simp
@[simp] theorem fieldGap_decide (o : AttemptEnd) : (decide o s).field.gap = s.field.gap := by
  unfold decide; (repeat' split) <;> simp
@[simp] theorem stored_decide (o : AttemptEnd) : (decide o s).store.stored = s.store.stored := by
  unfold decide; (repeat' split) <;> simp
@[simp] theorem factory_decide (o : AttemptEnd) : (decide o s).store.factory = s.store.factory := by
  unfold decide; (repeat' split) <;> simp
@[simp] theorem op_decide (o : AttemptEnd) : (decide o s).store.op = s.store.op := by
  unfold decide; (repeat' split) <;> simp
@[simp] theorem sweepClaim_decide (o : AttemptEnd) : (decide o s).store.sweepClaim = s.store.sweepClaim := by
  unfold decide; (repeat' split) <;> simp
@[simp] theorem mgmtClaim_decide (o : AttemptEnd) : (decide o s).store.mgmtClaim = s.store.mgmtClaim := by
  unfold decide; (repeat' split) <;> simp
@[simp] theorem sweepPos_decide (o : AttemptEnd) : (decide o s).store.sweepPos = s.store.sweepPos := by
  unfold decide; (repeat' split) <;> simp
@[simp] theorem sweepTimer_decide (o : AttemptEnd) : (decide o s).store.sweepTimer = s.store.sweepTimer := by
  unfold decide; (repeat' split) <;> simp
@[simp] theorem heldIdentity_decide (o : AttemptEnd) : (decide o s).store.heldIdentity = s.store.heldIdentity := by
  unfold decide; (repeat' split) <;> simp
@[simp] theorem record_decide (o : AttemptEnd) : (decide o s).relay.record = s.relay.record := by
  unfold decide; (repeat' split) <;> simp
@[simp] theorem lastRefusal_decide (o : AttemptEnd) : (decide o s).relay.lastRefusal = s.relay.lastRefusal := by
  unfold decide; (repeat' split) <;> simp
@[simp] theorem report_decide (o : AttemptEnd) : (decide o s).relay.report = s.relay.report := by
  unfold decide; (repeat' split) <;> simp
@[simp] theorem mailbox_decide (o : AttemptEnd) : (decide o s).mgmt.mailbox = s.mgmt.mailbox := by
  unfold decide; (repeat' split) <;> simp
@[simp] theorem wait_decide (o : AttemptEnd) : (decide o s).mgmt.wait = s.mgmt.wait := by
  unfold decide; (repeat' split) <;> simp
@[simp] theorem transfer_decide (o : AttemptEnd) : (decide o s).mgmt.transfer = s.mgmt.transfer := by
  unfold decide; (repeat' split) <;> simp
@[simp] theorem buffer_decide (o : AttemptEnd) : (decide o s).mgmt.buffer = s.mgmt.buffer := by
  unfold decide; (repeat' split) <;> simp
@[simp] theorem fetchFactory_decide (o : AttemptEnd) : (decide o s).mgmt.fetchFactory = s.mgmt.fetchFactory := by
  unfold decide; (repeat' split) <;> simp
@[simp] theorem idle_decide (o : AttemptEnd) : (decide o s).mgmt.idle = s.mgmt.idle := by
  unfold decide; (repeat' split) <;> simp
@[simp] theorem mask_decide (o : AttemptEnd) : (decide o s).mgmt.mask = s.mgmt.mask := by
  unfold decide; (repeat' split) <;> simp
@[simp] theorem restart_decide (o : AttemptEnd) : (decide o s).mgmt.restart = s.mgmt.restart := by
  unfold decide; (repeat' split) <;> simp
@[simp] theorem lastReject_decide (o : AttemptEnd) : (decide o s).mgmt.lastReject = s.mgmt.lastReject := by
  unfold decide; (repeat' split) <;> simp

/-! ### A response -/

@[simp] theorem now_respond (c : Nat) (st : Status) (d : List Byte) : (respond c st d s).now = s.now := by
  simp [respond]
@[simp] theorem powered_respond (c : Nat) (st : Status) (d : List Byte) : (respond c st d s).powered = s.powered := by
  simp [respond]
@[simp] theorem link_respond (c : Nat) (st : Status) (d : List Byte) : (respond c st d s).link = s.link := by
  simp [respond]
@[simp] theorem up_respond (c : Nat) (st : Status) (d : List Byte) : (respond c st d s).up = s.up := by simp [respond]
@[simp] theorem field_respond (c : Nat) (st : Status) (d : List Byte) : (respond c st d s).field = s.field := by
  simp [respond]
@[simp] theorem cyc_respond (c : Nat) (st : Status) (d : List Byte) : (respond c st d s).cyc = s.cyc := by
  simp [respond]
@[simp] theorem arb_respond (c : Nat) (st : Status) (d : List Byte) : (respond c st d s).arb = s.arb := by
  simp [respond]
@[simp] theorem chans_respond (c : Nat) (st : Status) (d : List Byte) : (respond c st d s).chans = s.chans := by
  simp [respond]
@[simp] theorem demand_respond (c : Nat) (st : Status) (d : List Byte) : (respond c st d s).demand = s.demand := by
  simp [respond]
@[simp] theorem seq_respond (c : Nat) (st : Status) (d : List Byte) : (respond c st d s).seq = s.seq := by
  simp [respond]
@[simp] theorem flue_respond (c : Nat) (st : Status) (d : List Byte) : (respond c st d s).flue = s.flue := by
  simp [respond]
@[simp] theorem frost_respond (c : Nat) (st : Status) (d : List Byte) : (respond c st d s).frost = s.frost := by
  simp [respond]
@[simp] theorem lock_respond (c : Nat) (st : Status) (d : List Byte) : (respond c st d s).lock = s.lock := by
  simp [respond]
@[simp] theorem store_respond (c : Nat) (st : Status) (d : List Byte) : (respond c st d s).store = s.store := by
  simp [respond]
@[simp] theorem order_respond (c : Nat) (st : Status) (d : List Byte) : (respond c st d s).order = s.order := by
  simp [respond]
@[simp] theorem freeIndex_respond (c : Nat) (st : Status) (d : List Byte) :
    (respond c st d s).freeIndex = s.freeIndex := by
  simp [respond]
@[simp] theorem pending_respond (c : Nat) (st : Status) (d : List Byte) : (respond c st d s).pending = s.pending := by
  simp [respond]
@[simp] theorem record_respond (c : Nat) (st : Status) (d : List Byte) :
    (respond c st d s).relay.record = s.relay.record := by
  simp [respond]
@[simp] theorem lastRefusal_respond (c : Nat) (st : Status) (d : List Byte) :
    (respond c st d s).relay.lastRefusal = s.relay.lastRefusal := by
  simp [respond]
@[simp] theorem report_respond (c : Nat) (st : Status) (d : List Byte) :
    (respond c st d s).relay.report = s.relay.report := by
  simp [respond]
@[simp] theorem wait_respond (c : Nat) (st : Status) (d : List Byte) : (respond c st d s).mgmt.wait = s.mgmt.wait := by
  simp [respond]
@[simp] theorem transfer_respond (c : Nat) (st : Status) (d : List Byte) :
    (respond c st d s).mgmt.transfer = s.mgmt.transfer := by
  simp [respond]
@[simp] theorem buffer_respond (c : Nat) (st : Status) (d : List Byte) :
    (respond c st d s).mgmt.buffer = s.mgmt.buffer := by
  simp [respond]
@[simp] theorem fetchFactory_respond (c : Nat) (st : Status) (d : List Byte) :
    (respond c st d s).mgmt.fetchFactory = s.mgmt.fetchFactory := by
  simp [respond]
@[simp] theorem idle_respond (c : Nat) (st : Status) (d : List Byte) : (respond c st d s).mgmt.idle = s.mgmt.idle := by
  simp [respond]
@[simp] theorem mask_respond (c : Nat) (st : Status) (d : List Byte) : (respond c st d s).mgmt.mask = s.mgmt.mask := by
  simp [respond]
@[simp] theorem restart_respond (c : Nat) (st : Status) (d : List Byte) :
    (respond c st d s).mgmt.restart = s.mgmt.restart := by
  simp [respond]
@[simp] theorem lastReject_respond (c : Nat) (st : Status) (d : List Byte) :
    (respond c st d s).mgmt.lastReject = s.mgmt.lastReject := by
  simp [respond]

/-! ### A completed frame -/

@[simp] theorem now_complete (id : PortId) (a : Option Ack) : (complete id a s).now = s.now := by cases id <;> rfl
@[simp] theorem powered_complete (id : PortId) (a : Option Ack) : (complete id a s).powered = s.powered := by
  cases id <;> rfl
@[simp] theorem link_complete (id : PortId) (a : Option Ack) : (complete id a s).link = s.link := by cases id <;> rfl
@[simp] theorem arb_complete (id : PortId) (a : Option Ack) : (complete id a s).arb = s.arb := by cases id <;> rfl
@[simp] theorem relay_complete (id : PortId) (a : Option Ack) : (complete id a s).relay = s.relay := by cases id <;> rfl
@[simp] theorem chans_complete (id : PortId) (a : Option Ack) : (complete id a s).chans = s.chans := by cases id <;> rfl
@[simp] theorem demand_complete (id : PortId) (a : Option Ack) : (complete id a s).demand = s.demand := by
  cases id <;> rfl
@[simp] theorem seq_complete (id : PortId) (a : Option Ack) : (complete id a s).seq = s.seq := by cases id <;> rfl
@[simp] theorem flue_complete (id : PortId) (a : Option Ack) : (complete id a s).flue = s.flue := by cases id <;> rfl
@[simp] theorem frost_complete (id : PortId) (a : Option Ack) : (complete id a s).frost = s.frost := by cases id <;> rfl
@[simp] theorem lock_complete (id : PortId) (a : Option Ack) : (complete id a s).lock = s.lock := by cases id <;> rfl
@[simp] theorem store_complete (id : PortId) (a : Option Ack) : (complete id a s).store = s.store := by cases id <;> rfl
@[simp] theorem mgmt_complete (id : PortId) (a : Option Ack) : (complete id a s).mgmt = s.mgmt := by cases id <;> rfl
@[simp] theorem order_complete (id : PortId) (a : Option Ack) : (complete id a s).order = s.order := by cases id <;> rfl
@[simp] theorem freeIndex_complete (id : PortId) (a : Option Ack) : (complete id a s).freeIndex = s.freeIndex := by
  cases id <;> rfl
@[simp] theorem pending_complete (id : PortId) (a : Option Ack) : (complete id a s).pending = s.pending := by
  cases id <;> rfl

/-! ### A refusal -/

@[simp] theorem now_setRefusal (o d : Nat) (c : Option Nat) (r : RefusalReason) :
    (setRefusal o d c r s).now = s.now := by
  rfl
@[simp] theorem powered_setRefusal (o d : Nat) (c : Option Nat) (r : RefusalReason) :
    (setRefusal o d c r s).powered = s.powered := by
  rfl
@[simp] theorem link_setRefusal (o d : Nat) (c : Option Nat) (r : RefusalReason) :
    (setRefusal o d c r s).link = s.link := by
  rfl
@[simp] theorem up_setRefusal (o d : Nat) (c : Option Nat) (r : RefusalReason) : (setRefusal o d c r s).up = s.up := by
  rfl
@[simp] theorem field_setRefusal (o d : Nat) (c : Option Nat) (r : RefusalReason) :
    (setRefusal o d c r s).field = s.field := by
  rfl
@[simp] theorem cyc_setRefusal (o d : Nat) (c : Option Nat) (r : RefusalReason) :
    (setRefusal o d c r s).cyc = s.cyc := by
  rfl
@[simp] theorem arb_setRefusal (o d : Nat) (c : Option Nat) (r : RefusalReason) :
    (setRefusal o d c r s).arb = s.arb := by
  rfl
@[simp] theorem chans_setRefusal (o d : Nat) (c : Option Nat) (r : RefusalReason) :
    (setRefusal o d c r s).chans = s.chans := by
  rfl
@[simp] theorem demand_setRefusal (o d : Nat) (c : Option Nat) (r : RefusalReason) :
    (setRefusal o d c r s).demand = s.demand := by
  rfl
@[simp] theorem seq_setRefusal (o d : Nat) (c : Option Nat) (r : RefusalReason) :
    (setRefusal o d c r s).seq = s.seq := by
  rfl
@[simp] theorem flue_setRefusal (o d : Nat) (c : Option Nat) (r : RefusalReason) :
    (setRefusal o d c r s).flue = s.flue := by
  rfl
@[simp] theorem frost_setRefusal (o d : Nat) (c : Option Nat) (r : RefusalReason) :
    (setRefusal o d c r s).frost = s.frost := by
  rfl
@[simp] theorem lock_setRefusal (o d : Nat) (c : Option Nat) (r : RefusalReason) :
    (setRefusal o d c r s).lock = s.lock := by
  rfl
@[simp] theorem store_setRefusal (o d : Nat) (c : Option Nat) (r : RefusalReason) :
    (setRefusal o d c r s).store = s.store := by
  rfl
@[simp] theorem mgmt_setRefusal (o d : Nat) (c : Option Nat) (r : RefusalReason) :
    (setRefusal o d c r s).mgmt = s.mgmt := by
  rfl
@[simp] theorem order_setRefusal (o d : Nat) (c : Option Nat) (r : RefusalReason) :
    (setRefusal o d c r s).order = s.order := by
  rfl
@[simp] theorem freeIndex_setRefusal (o d : Nat) (c : Option Nat) (r : RefusalReason) :
    (setRefusal o d c r s).freeIndex = s.freeIndex := by
  rfl
@[simp] theorem pending_setRefusal (o d : Nat) (c : Option Nat) (r : RefusalReason) :
    (setRefusal o d c r s).pending = s.pending := by
  rfl
@[simp] theorem utq_setRefusal (o d : Nat) (c : Option Nat) (r : RefusalReason) :
    (setRefusal o d c r s).relay.utq = s.relay.utq := by
  rfl
@[simp] theorem record_setRefusal (o d : Nat) (c : Option Nat) (r : RefusalReason) :
    (setRefusal o d c r s).relay.record = s.relay.record := by
  rfl
@[simp] theorem report_setRefusal (o d : Nat) (c : Option Nat) (r : RefusalReason) :
    (setRefusal o d c r s).relay.report = s.relay.report := by
  rfl

/-! ### A release of the hold -/

@[simp] theorem now_releaseHold (a : Ack) : (releaseHold a s).now = s.now := by
  unfold releaseHold; dsimp only; (repeat' split) <;> simp
@[simp] theorem powered_releaseHold (a : Ack) : (releaseHold a s).powered = s.powered := by
  unfold releaseHold; dsimp only; (repeat' split) <;> simp
@[simp] theorem link_releaseHold (a : Ack) : (releaseHold a s).link = s.link := by
  unfold releaseHold; dsimp only; (repeat' split) <;> simp
@[simp] theorem field_releaseHold (a : Ack) : (releaseHold a s).field = s.field := by
  unfold releaseHold; dsimp only; (repeat' split) <;> simp
@[simp] theorem cyc_releaseHold (a : Ack) : (releaseHold a s).cyc = s.cyc := by
  unfold releaseHold; dsimp only; (repeat' split) <;> simp
@[simp] theorem arb_releaseHold (a : Ack) : (releaseHold a s).arb = s.arb := by
  unfold releaseHold; dsimp only; (repeat' split) <;> simp
@[simp] theorem relay_releaseHold (a : Ack) : (releaseHold a s).relay = s.relay := by
  unfold releaseHold; dsimp only; (repeat' split) <;> simp
@[simp] theorem chans_releaseHold (a : Ack) : (releaseHold a s).chans = s.chans := by
  unfold releaseHold; dsimp only; (repeat' split) <;> simp
@[simp] theorem demand_releaseHold (a : Ack) : (releaseHold a s).demand = s.demand := by
  unfold releaseHold; dsimp only; (repeat' split) <;> simp
@[simp] theorem seq_releaseHold (a : Ack) : (releaseHold a s).seq = s.seq := by
  unfold releaseHold; dsimp only; (repeat' split) <;> simp
@[simp] theorem flue_releaseHold (a : Ack) : (releaseHold a s).flue = s.flue := by
  unfold releaseHold; dsimp only; (repeat' split) <;> simp
@[simp] theorem frost_releaseHold (a : Ack) : (releaseHold a s).frost = s.frost := by
  unfold releaseHold; dsimp only; (repeat' split) <;> simp
@[simp] theorem lock_releaseHold (a : Ack) : (releaseHold a s).lock = s.lock := by
  unfold releaseHold; dsimp only; (repeat' split) <;> simp
@[simp] theorem store_releaseHold (a : Ack) : (releaseHold a s).store = s.store := by
  unfold releaseHold; dsimp only; (repeat' split) <;> simp
@[simp] theorem mgmt_releaseHold (a : Ack) : (releaseHold a s).mgmt = s.mgmt := by
  unfold releaseHold; dsimp only; (repeat' split) <;> simp
@[simp] theorem freeIndex_releaseHold (a : Ack) : (releaseHold a s).freeIndex = s.freeIndex := by
  unfold releaseHold; dsimp only; (repeat' split) <;> simp
@[simp] theorem pending_releaseHold (a : Ack) : (releaseHold a s).pending = s.pending := by
  unfold releaseHold; dsimp only; (repeat' split) <;> simp

/-! ### A try begins -/

@[simp] theorem now_startTry (id : PortId) (o : Owner) (f : Frame) : (startTry id o f s).now = s.now := by
  simp [startTry]
@[simp] theorem powered_startTry (id : PortId) (o : Owner) (f : Frame) : (startTry id o f s).powered = s.powered := by
  simp [startTry]
@[simp] theorem link_startTry (id : PortId) (o : Owner) (f : Frame) : (startTry id o f s).link = s.link := by
  simp [startTry]
@[simp] theorem cyc_startTry (id : PortId) (o : Owner) (f : Frame) : (startTry id o f s).cyc = s.cyc := by
  simp [startTry]
@[simp] theorem arb_startTry (id : PortId) (o : Owner) (f : Frame) : (startTry id o f s).arb = s.arb := by
  simp [startTry]
@[simp] theorem relay_startTry (id : PortId) (o : Owner) (f : Frame) : (startTry id o f s).relay = s.relay := by
  simp [startTry]
@[simp] theorem chans_startTry (id : PortId) (o : Owner) (f : Frame) : (startTry id o f s).chans = s.chans := by
  simp [startTry]
@[simp] theorem demand_startTry (id : PortId) (o : Owner) (f : Frame) : (startTry id o f s).demand = s.demand := by
  simp [startTry]
@[simp] theorem seq_startTry (id : PortId) (o : Owner) (f : Frame) : (startTry id o f s).seq = s.seq := by
  simp [startTry]
@[simp] theorem flue_startTry (id : PortId) (o : Owner) (f : Frame) : (startTry id o f s).flue = s.flue := by
  simp [startTry]
@[simp] theorem frost_startTry (id : PortId) (o : Owner) (f : Frame) : (startTry id o f s).frost = s.frost := by
  simp [startTry]
@[simp] theorem lock_startTry (id : PortId) (o : Owner) (f : Frame) : (startTry id o f s).lock = s.lock := by
  simp [startTry]
@[simp] theorem store_startTry (id : PortId) (o : Owner) (f : Frame) : (startTry id o f s).store = s.store := by
  simp [startTry]
@[simp] theorem mgmt_startTry (id : PortId) (o : Owner) (f : Frame) : (startTry id o f s).mgmt = s.mgmt := by
  simp [startTry]
@[simp] theorem order_startTry (id : PortId) (o : Owner) (f : Frame) : (startTry id o f s).order = s.order := by
  simp [startTry]
@[simp] theorem freeIndex_startTry (id : PortId) (o : Owner) (f : Frame) :
    (startTry id o f s).freeIndex = s.freeIndex := by
  simp [startTry]
@[simp] theorem pending_startTry (id : PortId) (o : Owner) (f : Frame) : (startTry id o f s).pending = s.pending := by
  simp [startTry]

/-! ### The transfer -/

@[simp] theorem now_setTransfer (x : Transfer) : (setTransfer x s).now = s.now := by rfl
@[simp] theorem powered_setTransfer (x : Transfer) : (setTransfer x s).powered = s.powered := by rfl
@[simp] theorem link_setTransfer (x : Transfer) : (setTransfer x s).link = s.link := by rfl
@[simp] theorem up_setTransfer (x : Transfer) : (setTransfer x s).up = s.up := by rfl
@[simp] theorem field_setTransfer (x : Transfer) : (setTransfer x s).field = s.field := by rfl
@[simp] theorem cyc_setTransfer (x : Transfer) : (setTransfer x s).cyc = s.cyc := by rfl
@[simp] theorem arb_setTransfer (x : Transfer) : (setTransfer x s).arb = s.arb := by rfl
@[simp] theorem relay_setTransfer (x : Transfer) : (setTransfer x s).relay = s.relay := by rfl
@[simp] theorem chans_setTransfer (x : Transfer) : (setTransfer x s).chans = s.chans := by rfl
@[simp] theorem demand_setTransfer (x : Transfer) : (setTransfer x s).demand = s.demand := by rfl
@[simp] theorem seq_setTransfer (x : Transfer) : (setTransfer x s).seq = s.seq := by rfl
@[simp] theorem flue_setTransfer (x : Transfer) : (setTransfer x s).flue = s.flue := by rfl
@[simp] theorem frost_setTransfer (x : Transfer) : (setTransfer x s).frost = s.frost := by rfl
@[simp] theorem lock_setTransfer (x : Transfer) : (setTransfer x s).lock = s.lock := by rfl
@[simp] theorem store_setTransfer (x : Transfer) : (setTransfer x s).store = s.store := by rfl
@[simp] theorem order_setTransfer (x : Transfer) : (setTransfer x s).order = s.order := by rfl
@[simp] theorem freeIndex_setTransfer (x : Transfer) : (setTransfer x s).freeIndex = s.freeIndex := by rfl
@[simp] theorem pending_setTransfer (x : Transfer) : (setTransfer x s).pending = s.pending := by rfl

/-! ### The transfer closes -/

@[simp] theorem now_closeTransfer : (closeTransfer s).now = s.now := by rfl
@[simp] theorem powered_closeTransfer : (closeTransfer s).powered = s.powered := by rfl
@[simp] theorem link_closeTransfer : (closeTransfer s).link = s.link := by rfl
@[simp] theorem up_closeTransfer : (closeTransfer s).up = s.up := by rfl
@[simp] theorem field_closeTransfer : (closeTransfer s).field = s.field := by rfl
@[simp] theorem cyc_closeTransfer : (closeTransfer s).cyc = s.cyc := by rfl
@[simp] theorem arb_closeTransfer : (closeTransfer s).arb = s.arb := by rfl
@[simp] theorem relay_closeTransfer : (closeTransfer s).relay = s.relay := by rfl
@[simp] theorem chans_closeTransfer : (closeTransfer s).chans = s.chans := by rfl
@[simp] theorem demand_closeTransfer : (closeTransfer s).demand = s.demand := by rfl
@[simp] theorem seq_closeTransfer : (closeTransfer s).seq = s.seq := by rfl
@[simp] theorem flue_closeTransfer : (closeTransfer s).flue = s.flue := by rfl
@[simp] theorem frost_closeTransfer : (closeTransfer s).frost = s.frost := by rfl
@[simp] theorem lock_closeTransfer : (closeTransfer s).lock = s.lock := by rfl
@[simp] theorem order_closeTransfer : (closeTransfer s).order = s.order := by rfl
@[simp] theorem freeIndex_closeTransfer : (closeTransfer s).freeIndex = s.freeIndex := by rfl
@[simp] theorem pending_closeTransfer : (closeTransfer s).pending = s.pending := by rfl
@[simp] theorem mailbox_closeTransfer : (closeTransfer s).mgmt.mailbox = s.mgmt.mailbox := by rfl
@[simp] theorem wait_closeTransfer : (closeTransfer s).mgmt.wait = s.mgmt.wait := by rfl
@[simp] theorem buffer_closeTransfer : (closeTransfer s).mgmt.buffer = s.mgmt.buffer := by rfl
@[simp] theorem events_closeTransfer : (closeTransfer s).mgmt.events = s.mgmt.events := by rfl
@[simp] theorem mask_closeTransfer : (closeTransfer s).mgmt.mask = s.mgmt.mask := by rfl
@[simp] theorem restart_closeTransfer : (closeTransfer s).mgmt.restart = s.mgmt.restart := by rfl
@[simp] theorem lastReject_closeTransfer : (closeTransfer s).mgmt.lastReject = s.mgmt.lastReject := by rfl
@[simp] theorem stored_closeTransfer : (closeTransfer s).store.stored = s.store.stored := by rfl
@[simp] theorem copies_closeTransfer : (closeTransfer s).store.copies = s.store.copies := by rfl
@[simp] theorem pendingRec_closeTransfer : (closeTransfer s).store.pendingRec = s.store.pendingRec := by rfl
@[simp] theorem op_closeTransfer : (closeTransfer s).store.op = s.store.op := by rfl

/-! ### A frame queued for a station -/

@[simp] theorem now_queueFrost (n : Nat) (f : FrostFrame) : (queueFrost n f s).now = s.now := by rfl
@[simp] theorem powered_queueFrost (n : Nat) (f : FrostFrame) : (queueFrost n f s).powered = s.powered := by rfl
@[simp] theorem link_queueFrost (n : Nat) (f : FrostFrame) : (queueFrost n f s).link = s.link := by rfl
@[simp] theorem up_queueFrost (n : Nat) (f : FrostFrame) : (queueFrost n f s).up = s.up := by rfl
@[simp] theorem field_queueFrost (n : Nat) (f : FrostFrame) : (queueFrost n f s).field = s.field := by rfl
@[simp] theorem cyc_queueFrost (n : Nat) (f : FrostFrame) : (queueFrost n f s).cyc = s.cyc := by rfl
@[simp] theorem relay_queueFrost (n : Nat) (f : FrostFrame) : (queueFrost n f s).relay = s.relay := by rfl
@[simp] theorem chans_queueFrost (n : Nat) (f : FrostFrame) : (queueFrost n f s).chans = s.chans := by rfl
@[simp] theorem demand_queueFrost (n : Nat) (f : FrostFrame) : (queueFrost n f s).demand = s.demand := by rfl
@[simp] theorem seq_queueFrost (n : Nat) (f : FrostFrame) : (queueFrost n f s).seq = s.seq := by rfl
@[simp] theorem flue_queueFrost (n : Nat) (f : FrostFrame) : (queueFrost n f s).flue = s.flue := by rfl
@[simp] theorem frost_queueFrost (n : Nat) (f : FrostFrame) : (queueFrost n f s).frost = s.frost := by rfl
@[simp] theorem lock_queueFrost (n : Nat) (f : FrostFrame) : (queueFrost n f s).lock = s.lock := by rfl
@[simp] theorem store_queueFrost (n : Nat) (f : FrostFrame) : (queueFrost n f s).store = s.store := by rfl
@[simp] theorem mgmt_queueFrost (n : Nat) (f : FrostFrame) : (queueFrost n f s).mgmt = s.mgmt := by rfl
@[simp] theorem order_queueFrost (n : Nat) (f : FrostFrame) : (queueFrost n f s).order = s.order := by rfl
@[simp] theorem freeIndex_queueFrost (n : Nat) (f : FrostFrame) : (queueFrost n f s).freeIndex = s.freeIndex := by rfl
@[simp] theorem pending_queueFrost (n : Nat) (f : FrostFrame) : (queueFrost n f s).pending = s.pending := by rfl
@[simp] theorem inFlight_queueFrost (n : Nat) (f : FrostFrame) : (queueFrost n f s).arb.inFlight = s.arb.inFlight := by
  rfl
@[simp] theorem pendingSet_queueFrost (n : Nat) (f : FrostFrame) : (queueFrost n f s).arb.pending = s.arb.pending := by
  rfl
@[simp] theorem markWaiting_queueFrost (n : Nat) (f : FrostFrame) :
    (queueFrost n f s).arb.markWaiting = s.arb.markWaiting := by
  rfl
@[simp] theorem markOnLine_queueFrost (n : Nat) (f : FrostFrame) :
    (queueFrost n f s).arb.markOnLine = s.arb.markOnLine := by
  rfl
@[simp] theorem relaySlot_queueFrost (n : Nat) (f : FrostFrame) :
    (queueFrost n f s).arb.relaySlot = s.arb.relaySlot := by
  rfl

/-! ### The hold codes queued -/

@[simp] theorem now_queueHold (z : Fin 6) (v : Bool) : (queueHold z v s).now = s.now := by
  unfold queueHold; split <;> simp
@[simp] theorem powered_queueHold (z : Fin 6) (v : Bool) : (queueHold z v s).powered = s.powered := by
  unfold queueHold; split <;> simp
@[simp] theorem link_queueHold (z : Fin 6) (v : Bool) : (queueHold z v s).link = s.link := by
  unfold queueHold; split <;> simp
@[simp] theorem up_queueHold (z : Fin 6) (v : Bool) : (queueHold z v s).up = s.up := by unfold queueHold; split <;> simp
@[simp] theorem field_queueHold (z : Fin 6) (v : Bool) : (queueHold z v s).field = s.field := by
  unfold queueHold; split <;> simp
@[simp] theorem cyc_queueHold (z : Fin 6) (v : Bool) : (queueHold z v s).cyc = s.cyc := by
  unfold queueHold; split <;> simp
@[simp] theorem relay_queueHold (z : Fin 6) (v : Bool) : (queueHold z v s).relay = s.relay := by
  unfold queueHold; split <;> simp
@[simp] theorem chans_queueHold (z : Fin 6) (v : Bool) : (queueHold z v s).chans = s.chans := by
  unfold queueHold; split <;> simp
@[simp] theorem demand_queueHold (z : Fin 6) (v : Bool) : (queueHold z v s).demand = s.demand := by
  unfold queueHold; split <;> simp
@[simp] theorem seq_queueHold (z : Fin 6) (v : Bool) : (queueHold z v s).seq = s.seq := by
  unfold queueHold; split <;> simp
@[simp] theorem flue_queueHold (z : Fin 6) (v : Bool) : (queueHold z v s).flue = s.flue := by
  unfold queueHold; split <;> simp
@[simp] theorem frost_queueHold (z : Fin 6) (v : Bool) : (queueHold z v s).frost = s.frost := by
  unfold queueHold; split <;> simp
@[simp] theorem lock_queueHold (z : Fin 6) (v : Bool) : (queueHold z v s).lock = s.lock := by
  unfold queueHold; split <;> simp
@[simp] theorem store_queueHold (z : Fin 6) (v : Bool) : (queueHold z v s).store = s.store := by
  unfold queueHold; split <;> simp
@[simp] theorem mgmt_queueHold (z : Fin 6) (v : Bool) : (queueHold z v s).mgmt = s.mgmt := by
  unfold queueHold; split <;> simp
@[simp] theorem order_queueHold (z : Fin 6) (v : Bool) : (queueHold z v s).order = s.order := by
  unfold queueHold; split <;> simp
@[simp] theorem freeIndex_queueHold (z : Fin 6) (v : Bool) : (queueHold z v s).freeIndex = s.freeIndex := by
  unfold queueHold; split <;> simp
@[simp] theorem pending_queueHold (z : Fin 6) (v : Bool) : (queueHold z v s).pending = s.pending := by
  unfold queueHold; split <;> simp

/-! ### A station released -/

@[simp] theorem now_releaseStation (z : Fin 6) (v : Bool) : (releaseStation z v s).now = s.now := by
  unfold releaseStation; (repeat' split) <;> simp [queueRelease]
@[simp] theorem powered_releaseStation (z : Fin 6) (v : Bool) : (releaseStation z v s).powered = s.powered := by
  unfold releaseStation; (repeat' split) <;> simp [queueRelease]
@[simp] theorem link_releaseStation (z : Fin 6) (v : Bool) : (releaseStation z v s).link = s.link := by
  unfold releaseStation; (repeat' split) <;> simp [queueRelease]
@[simp] theorem up_releaseStation (z : Fin 6) (v : Bool) : (releaseStation z v s).up = s.up := by
  unfold releaseStation; (repeat' split) <;> simp [queueRelease]
@[simp] theorem field_releaseStation (z : Fin 6) (v : Bool) : (releaseStation z v s).field = s.field := by
  unfold releaseStation; (repeat' split) <;> simp [queueRelease]
@[simp] theorem cyc_releaseStation (z : Fin 6) (v : Bool) : (releaseStation z v s).cyc = s.cyc := by
  unfold releaseStation; (repeat' split) <;> simp [queueRelease]
@[simp] theorem relay_releaseStation (z : Fin 6) (v : Bool) : (releaseStation z v s).relay = s.relay := by
  unfold releaseStation; (repeat' split) <;> simp [queueRelease]
@[simp] theorem chans_releaseStation (z : Fin 6) (v : Bool) : (releaseStation z v s).chans = s.chans := by
  unfold releaseStation; (repeat' split) <;> simp [queueRelease]
@[simp] theorem demand_releaseStation (z : Fin 6) (v : Bool) : (releaseStation z v s).demand = s.demand := by
  unfold releaseStation; (repeat' split) <;> simp [queueRelease]
@[simp] theorem seq_releaseStation (z : Fin 6) (v : Bool) : (releaseStation z v s).seq = s.seq := by
  unfold releaseStation; (repeat' split) <;> simp [queueRelease]
@[simp] theorem flue_releaseStation (z : Fin 6) (v : Bool) : (releaseStation z v s).flue = s.flue := by
  unfold releaseStation; (repeat' split) <;> simp [queueRelease]
@[simp] theorem frost_releaseStation (z : Fin 6) (v : Bool) : (releaseStation z v s).frost = s.frost := by
  unfold releaseStation; (repeat' split) <;> simp [queueRelease]
@[simp] theorem lock_releaseStation (z : Fin 6) (v : Bool) : (releaseStation z v s).lock = s.lock := by
  unfold releaseStation; (repeat' split) <;> simp [queueRelease]
@[simp] theorem store_releaseStation (z : Fin 6) (v : Bool) : (releaseStation z v s).store = s.store := by
  unfold releaseStation; (repeat' split) <;> simp [queueRelease]
@[simp] theorem mgmt_releaseStation (z : Fin 6) (v : Bool) : (releaseStation z v s).mgmt = s.mgmt := by
  unfold releaseStation; (repeat' split) <;> simp [queueRelease]
@[simp] theorem order_releaseStation (z : Fin 6) (v : Bool) : (releaseStation z v s).order = s.order := by
  unfold releaseStation; (repeat' split) <;> simp [queueRelease]
@[simp] theorem freeIndex_releaseStation (z : Fin 6) (v : Bool) : (releaseStation z v s).freeIndex = s.freeIndex := by
  unfold releaseStation; (repeat' split) <;> simp [queueRelease]
@[simp] theorem pending_releaseStation (z : Fin 6) (v : Bool) : (releaseStation z v s).pending = s.pending := by
  unfold releaseStation; (repeat' split) <;> simp [queueRelease]

/-! ### A zone begins to hold -/

@[simp] theorem now_beginHold (z : Fin 6) : (beginHold z s).now = s.now := by simp [beginHold]
@[simp] theorem powered_beginHold (z : Fin 6) : (beginHold z s).powered = s.powered := by simp [beginHold]
@[simp] theorem link_beginHold (z : Fin 6) : (beginHold z s).link = s.link := by simp [beginHold]
@[simp] theorem up_beginHold (z : Fin 6) : (beginHold z s).up = s.up := by simp [beginHold]
@[simp] theorem field_beginHold (z : Fin 6) : (beginHold z s).field = s.field := by simp [beginHold]
@[simp] theorem cyc_beginHold (z : Fin 6) : (beginHold z s).cyc = s.cyc := by simp [beginHold]
@[simp] theorem relay_beginHold (z : Fin 6) : (beginHold z s).relay = s.relay := by simp [beginHold]
@[simp] theorem chans_beginHold (z : Fin 6) : (beginHold z s).chans = s.chans := by simp [beginHold]
@[simp] theorem demand_beginHold (z : Fin 6) : (beginHold z s).demand = s.demand := by simp [beginHold]
@[simp] theorem seq_beginHold (z : Fin 6) : (beginHold z s).seq = s.seq := by simp [beginHold]
@[simp] theorem flue_beginHold (z : Fin 6) : (beginHold z s).flue = s.flue := by simp [beginHold]
@[simp] theorem lock_beginHold (z : Fin 6) : (beginHold z s).lock = s.lock := by simp [beginHold]
@[simp] theorem store_beginHold (z : Fin 6) : (beginHold z s).store = s.store := by simp [beginHold]
@[simp] theorem mgmt_beginHold (z : Fin 6) : (beginHold z s).mgmt = s.mgmt := by simp [beginHold]
@[simp] theorem order_beginHold (z : Fin 6) : (beginHold z s).order = s.order := by simp [beginHold]
@[simp] theorem freeIndex_beginHold (z : Fin 6) : (beginHold z s).freeIndex = s.freeIndex := by simp [beginHold]
@[simp] theorem pending_beginHold (z : Fin 6) : (beginHold z s).pending = s.pending := by simp [beginHold]

/-! ### A zone stops holding -/

@[simp] theorem now_stopHold (z : Fin 6) : (stopHold z s).now = s.now := by simp [stopHold]
@[simp] theorem powered_stopHold (z : Fin 6) : (stopHold z s).powered = s.powered := by simp [stopHold]
@[simp] theorem link_stopHold (z : Fin 6) : (stopHold z s).link = s.link := by simp [stopHold]
@[simp] theorem up_stopHold (z : Fin 6) : (stopHold z s).up = s.up := by simp [stopHold]
@[simp] theorem field_stopHold (z : Fin 6) : (stopHold z s).field = s.field := by simp [stopHold]
@[simp] theorem cyc_stopHold (z : Fin 6) : (stopHold z s).cyc = s.cyc := by simp [stopHold]
@[simp] theorem relay_stopHold (z : Fin 6) : (stopHold z s).relay = s.relay := by simp [stopHold]
@[simp] theorem chans_stopHold (z : Fin 6) : (stopHold z s).chans = s.chans := by simp [stopHold]
@[simp] theorem demand_stopHold (z : Fin 6) : (stopHold z s).demand = s.demand := by simp [stopHold]
@[simp] theorem seq_stopHold (z : Fin 6) : (stopHold z s).seq = s.seq := by simp [stopHold]
@[simp] theorem flue_stopHold (z : Fin 6) : (stopHold z s).flue = s.flue := by simp [stopHold]
@[simp] theorem lock_stopHold (z : Fin 6) : (stopHold z s).lock = s.lock := by simp [stopHold]
@[simp] theorem store_stopHold (z : Fin 6) : (stopHold z s).store = s.store := by simp [stopHold]
@[simp] theorem mgmt_stopHold (z : Fin 6) : (stopHold z s).mgmt = s.mgmt := by simp [stopHold]
@[simp] theorem order_stopHold (z : Fin 6) : (stopHold z s).order = s.order := by simp [stopHold]
@[simp] theorem freeIndex_stopHold (z : Fin 6) : (stopHold z s).freeIndex = s.freeIndex := by simp [stopHold]
@[simp] theorem pending_stopHold (z : Fin 6) : (stopHold z s).pending = s.pending := by simp [stopHold]

/-! ### A zone takes a state -/

@[simp] theorem now_setZone (z : Fin 6) (st : ZoneState) : (setZone z st s).now = s.now := by
  unfold setZone; dsimp only; (repeat' split) <;> simp
@[simp] theorem powered_setZone (z : Fin 6) (st : ZoneState) : (setZone z st s).powered = s.powered := by
  unfold setZone; dsimp only; (repeat' split) <;> simp
@[simp] theorem link_setZone (z : Fin 6) (st : ZoneState) : (setZone z st s).link = s.link := by
  unfold setZone; dsimp only; (repeat' split) <;> simp
@[simp] theorem up_setZone (z : Fin 6) (st : ZoneState) : (setZone z st s).up = s.up := by
  unfold setZone; dsimp only; (repeat' split) <;> simp
@[simp] theorem field_setZone (z : Fin 6) (st : ZoneState) : (setZone z st s).field = s.field := by
  unfold setZone; dsimp only; (repeat' split) <;> simp
@[simp] theorem cyc_setZone (z : Fin 6) (st : ZoneState) : (setZone z st s).cyc = s.cyc := by
  unfold setZone; dsimp only; (repeat' split) <;> simp
@[simp] theorem relay_setZone (z : Fin 6) (st : ZoneState) : (setZone z st s).relay = s.relay := by
  unfold setZone; dsimp only; (repeat' split) <;> simp
@[simp] theorem chans_setZone (z : Fin 6) (st : ZoneState) : (setZone z st s).chans = s.chans := by
  unfold setZone; dsimp only; (repeat' split) <;> simp
@[simp] theorem demand_setZone (z : Fin 6) (st : ZoneState) : (setZone z st s).demand = s.demand := by
  unfold setZone; dsimp only; (repeat' split) <;> simp
@[simp] theorem seq_setZone (z : Fin 6) (st : ZoneState) : (setZone z st s).seq = s.seq := by
  unfold setZone; dsimp only; (repeat' split) <;> simp
@[simp] theorem flue_setZone (z : Fin 6) (st : ZoneState) : (setZone z st s).flue = s.flue := by
  unfold setZone; dsimp only; (repeat' split) <;> simp
@[simp] theorem lock_setZone (z : Fin 6) (st : ZoneState) : (setZone z st s).lock = s.lock := by
  unfold setZone; dsimp only; (repeat' split) <;> simp
@[simp] theorem store_setZone (z : Fin 6) (st : ZoneState) : (setZone z st s).store = s.store := by
  unfold setZone; dsimp only; (repeat' split) <;> simp
@[simp] theorem mgmt_setZone (z : Fin 6) (st : ZoneState) : (setZone z st s).mgmt = s.mgmt := by
  unfold setZone; dsimp only; (repeat' split) <;> simp
@[simp] theorem order_setZone (z : Fin 6) (st : ZoneState) : (setZone z st s).order = s.order := by
  unfold setZone; dsimp only; (repeat' split) <;> simp
@[simp] theorem freeIndex_setZone (z : Fin 6) (st : ZoneState) : (setZone z st s).freeIndex = s.freeIndex := by
  unfold setZone; dsimp only; (repeat' split) <;> simp
@[simp] theorem pending_setZone (z : Fin 6) (st : ZoneState) : (setZone z st s).pending = s.pending := by
  unfold setZone; dsimp only; (repeat' split) <;> simp

/-! ### What the entry to a state leaves -/

@[simp] theorem sup_moveTo (st : SupState) : (moveTo st s).seq.sup = st := rfl

@[simp] theorem frc_moveTo (st : SupState) : (moveTo st s).seq.frc = st.fuel := rfl

@[simp] theorem lkl_moveTo (st : SupState) : (moveTo st s).seq.lkl = st.lamp := rfl

@[simp] theorem sup_enterState (st : SupState) : (enterState st s).seq.sup = st := by simp [enterState]

@[simp] theorem frc_enterState (st : SupState) : (enterState st s).seq.frc = st.fuel := by simp [enterState]

@[simp] theorem lkl_enterState (st : SupState) : (enterState st s).seq.lkl = st.lamp := by simp [enterState]

/-- The called-for set reads only these parts of the state. -/
theorem calledSet_congr {s t : State} (h1 : t.seq.sup = s.seq.sup) (h2 : t.seq.heater = s.seq.heater)
    (h3 : t.demand.rate = s.demand.rate) (h4 : pageOf t 8 = pageOf s 8) : calledSet t = calledSet s := by
  simp [calledSet, schedule, h1, h2, h3, h4]

/-- Every block reads a page through the working copies alone. -/
theorem pageOf_congr {s t : State} (h : t.store.copies = s.store.copies) (p : Nat) : pageOf t p = pageOf s p := by
  simp [pageOf, copyOf, h]

/-- After the called-for set has been worked out it is the current one (R35). -/
theorem current_refreshSet : (refreshSet s).seq.current = calledSet (refreshSet s) := by
  have h : calledSet (refreshSet s) = calledSet s :=
    calledSet_congr (by simp) (by simp) (by simp) (pageOf_congr (by simp) 8)
  rw [h]
  unfold refreshSet
  split
  · next e => exact e.symm
  · rfl

/-- The set a state calls for is current after its entry (R33, R35). -/
theorem current_enterState (st : SupState) : (enterState st s).seq.current = calledSet (enterState st s) :=
  current_refreshSet _


end Sys2Proof.Machine
end

