-- ==== Sys2Proof/Laws/Closed.lean ====
section
/-! SUPPORT. What the commands can do to the parts the invariants read. Every shared operation is a chain of a
few primitive changes; a property closed under them is kept by each operation, and so by each command. -/

namespace Sys2Proof.Machine

/-! ### The parts the invariants read -/

/-- The hard lines, the attempt's phase, the Sequencer slot, and who owns the tries of the ports. -/
def guardPart (s : State) :=
  (s.seq.sup, s.seq.frc, s.seq.lkl, s.seq.attempt.map (·.phase), s.seq.current, s.arb.pending, s.arb.inFlight,
    s.up.trying.map (·.owner),
    s.field.trying.map (fun t => (t.owner, t.orphan, t.onLine, t.frame)))

/-- The queues with a form of their own. -/
def queuesPart (s : State) := (s.relay.utq, s.arb.frostQ, s.store.pendingRec)

/-- All that the invariants read. -/
def view (s : State) := (outside s, s.chans, guardPart s, queuesPart s)

/-- The view without the working copies and without what only the ports' tries change. -/
def lineView (s : State) :=
  (outside s, s.chans, s.seq.sup, s.seq.frc, s.seq.lkl, s.seq.attempt.map (·.phase), s.seq.current, queuesPart s)

/-- A property that the events of the blocks keep: they touch neither the channels nor the copies of the settings
pages, write no stored page, restart nothing, and end or start no try. -/
structure Events (P : State → Prop) : Prop where
  silent : ∀ s t, view t = view s → P s → P t
  offer : ∀ s f, sentUpstream f.kind = true → P s → P (setUtq (offerRaw s.relay.utq f).1 s)
  enter : ∀ s st, (st.inAttempt = true → s.seq.sup.inAttempt = true) → P s → P (enterState st s)
  start : ∀ s a w, a.phase = .chek → P s →
    P (enterState .chek { s with seq := { s.seq with attempt := some a }, flue := w })
  refresh : ∀ s, P s → P (refreshSet s)
  rePlace : ∀ s, P s → P (placeSet s.seq.current s)
  ask : ∀ s p, 14 ≤ p → p ≤ 18 → P s → P (askWrite p s)
  queue : ∀ s n f, P s → P (queueFrost n f s)
  record : ∀ s p c, 14 ≤ p → c.deferred = false → P s → P (setCopy p c s)

/-- A property that samples, changes of binding, the end of freshness and the replacement of copies keep too. -/
structure Closed (P : State → Prop) : Prop extends Events P where
  sample : ∀ s k b, P s → P (sampleChannel k b s).1
  rebind : ∀ s k, P s → P (rebindChannel k s).1
  stale : ∀ s k c, c.reading = (chan s k).reading → P s → P (setChan k c s)
  install : ∀ s l r, l.length ≤ 14 → (∀ x ∈ l, x.2.deferred = false) → P s → P (install l r s)

variable {P : State → Prop} {s : State}

/-! ### Silent updates -/

theorem settings_congr {s t : State} (h : t.store = s.store) : settings t = settings s := by
  simp [settings, copyOf, h]

theorem view_congr {s t : State} (h1 : t.store = s.store) (h2 : guardPart t = guardPart s) (h3 : t.relay.utq = s.relay.utq)
    (h4 : t.arb.frostQ = s.arb.frostQ) (h5 : (t.now, t.powered, t.link, t.pending) = (s.now, s.powered, s.link, s.pending))
    (h6 : t.chans = s.chans := by rfl) :
    view t = view s := by
  simp only [Prod.mk.injEq] at h5
  simp [view, outside, fixedPart, settings_congr h1, queuesPart, h1, h2, h3, h4, h5, h6]

/-! ### The free order, the event set, the queue upstream -/

theorem pick_closed (h : Events P) (n : Nat) (hs : P s) : P (pick n s).2 :=
  h.silent s _ (by unfold pick; split <;> rfl) hs

theorem choose_closed {α : Type} (h : Events P) (l : List α) (hs : P s) : P (choose l s).2 := pick_closed h _ hs

theorem renewOrder_closed (h : Events P) (hs : P s) : P (renewOrder s) := h.silent s _ rfl hs

theorem inEitherOrder_closed (h : Events P) {f g : State → State} (hf : ∀ s, P s → P (f s)) (hg : ∀ s, P s → P (g s))
    (hs : P s) : P (inEitherOrder f g s) := by
  unfold inEitherOrder
  split
  · exact hg _ (hf _ (pick_closed h _ hs))
  · exact hf _ (hg _ (pick_closed h _ hs))

theorem onMgmt_closed (h : Events P) (f : Mgmt → Mgmt) (hs : P s) : P (onMgmt f s) := h.silent s _ rfl hs

theorem onFlue_closed (h : Events P) (f : Flue → Flue) (hs : P s) : P (onFlue f s) := h.silent s _ rfl hs

theorem onTimers_closed (h : Events P) (f : PhaseTimers → PhaseTimers) (hs : P s) : P (onTimers f s) := h.silent s _ rfl hs

theorem onDemand_closed (h : Events P) (f : Demand → Demand) (hs : P s) : P (onDemand f s) := h.silent s _ rfl hs

theorem onZone_closed (h : Events P) (z : Fin 6) (f : Zone → Zone) (hs : P s) : P (onZone z f s) := h.silent s _ rfl hs

theorem addEvents_closed (h : Events P) (m : EventSet) (hs : P s) : P (addEvents m s) := h.silent s _ rfl hs

theorem offerAlert_closed (h : Events P) (hs : P s) : P (offerAlert s) := by
  unfold offerAlert
  have h1 := h.offer s (alertFrame s) rfl hs
  dsimp only
  split
  · split
    · exact h.offer _ _ rfl (addEvents_closed h _ h1)
    · exact addEvents_closed h _ h1
  · exact h1

theorem latchSet_closed (h : Events P) (m : EventSet) (hs : P s) : P (latchSet m s) := by
  unfold latchSet
  split
  · exact offerAlert_closed h (addEvents_closed h _ hs)
  · exact addEvents_closed h _ hs

theorem latch_closed (h : Events P) (l : List Event) (hs : P s) : P (latch l s) := latchSet_closed h _ hs

theorem offer_closed (h : Events P) (f : Frame) (hf : sentUpstream f.kind = true) (hs : P s) : P (offer f s) := by
  unfold Machine.offer
  dsimp only
  split
  · exact latch_closed h _ (h.offer s f hf hs)
  · exact h.offer s f hf hs

theorem rejectPage_closed (h : Events P) (r : RejectReason) (hs : P s) : P (rejectPage r s) :=
  latch_closed h _ (h.silent s _ rfl hs)

/-! ### Record pages -/

theorem changeRecord_closed (h : Events P) {p : Nat} (h1 : 14 ≤ p) (h2 : p ≤ 18) (c : Content) (hs : P s) :
    P (changeRecord p c s) := h.ask _ p h1 h2 (h.record _ _ _ h1 rfl hs)

theorem changeLock_closed (h : Events P) (f : LockPage → LockPage) (hs : P s) : P (changeLock f s) :=
  changeRecord_closed h (by omega) (by omega) _ hs

/-! ### The Firing Sequencer and the Flue Check Unit -/

theorem onAttempt_closed (h : Events P) (f : Attempt → Attempt) (hf : ∀ a, (f a).phase = a.phase) (hs : P s) :
    P (onAttempt f s) := by
  refine h.silent s _ ?_ hs
  refine view_congr rfl ?_ rfl rfl rfl
  simp [guardPart, Function.comp_def, hf]

theorem proofTest_closed (h : Events P) (hs : P s) : P (proofTest s) := by
  unfold proofTest
  repeat' split
  all_goals first | exact hs | exact onFlue_closed h _ hs

theorem lossTest_closed (h : Events P) (hs : P s) : P (lossTest s) := by
  unfold lossTest
  repeat' split
  all_goals first | exact hs | exact onFlue_closed h _ hs

theorem beginAttempt_closed (h : Events P) (hs : P s) : P (beginAttempt s) :=
  h.start _ _ _ rfl (changeLock_closed h _ hs)

theorem lockDecision_closed (h : Events P) (o : AttemptEnd) (n : Nat) (hs : P s) : P (lockDecision o n s) := by
  unfold lockDecision
  split
  · exact changeLock_closed h _ hs
  · exact hs

/-- The slot found among occupied ones is one of them. -/
theorem oldestSlot_lt (next n : Nat) (l : List (Nat × Nat)) (hn : 0 < n) (h : ∀ x ∈ l, x.1 < n) : oldestSlot next l < n := by
  cases l with
  | nil => exact hn
  | cons a rest =>
    obtain ⟨k, q⟩ := a
    have key : ∀ (l : List (Nat × Nat)) (b : Nat × Nat), (∀ x ∈ l, x.1 < n) → b.1 < n →
        (l.foldl (fun best x => if best.2 < summaryAge next x.2 then (x.1, summaryAge next x.2) else best) b).1 < n := by
      intro l
      induction l with
      | nil => intro b _ hb; exact hb
      | cons x l ih =>
        intro b hl hb
        refine ih _ (fun y hy => hl y (List.mem_cons_of_mem _ hy)) ?_
        dsimp only
        split
        · exact hl x (List.mem_cons_self ..)
        · exact hb
    exact key rest _ (fun x hx => h x (List.mem_cons_of_mem _ hx)) (h (k, q) (List.mem_cons_self ..))

/-- A summary goes to one of the sixteen slots. -/
theorem summarySlot_lt (s : State) : summarySlot s < 16 := by
  unfold summarySlot
  split
  · next k hk => exact List.mem_range.mp (List.mem_of_find?_eq_some hk)
  · refine oldestSlot_lt _ 16 _ (by omega) ?_
    intro x hx
    simp only [occupiedSlots, List.mem_map, List.mem_filter, List.mem_range] at hx
    obtain ⟨k, ⟨hk, _⟩, rfl⟩ := hx
    exact hk

theorem placeSummary_closed (h : Events P) (x : Summary) (hs : P s) : P (placeSummary x s) :=
  changeRecord_closed h (by unfold slotPage; omega)
    (by have := summarySlot_lt s; unfold slotPage; omega) _ hs

theorem emptyHistory_closed (h : Events P) (hs : P s) : P (emptyHistory s) :=
  changeRecord_closed h (by omega) (by omega) _ (changeRecord_closed h (by omega) (by omega) _
    (changeRecord_closed h (by omega) (by omega) _ (changeRecord_closed h (by omega) (by omega) _ hs)))

theorem undecided_inAttempt {st : SupState} (h : st.undecided = true) : st.inAttempt = true := by
  cases st <;> first | rfl | cases h

theorem decide_closed (h : Events P) (o : AttemptEnd) (hs : P s) : P (decide o s) := by
  unfold decide
  split
  · exact hs
  · next a ha =>
    split
    · exact hs
    · next hu =>
      refine h.enter _ _ ?_ (latch_closed h _ (lockDecision_closed h _ _ (placeSummary_closed h _ (h.silent s _ ?_ hs))))
      · intro _
        simp only [Bool.or_eq_true, not_or, Bool.not_eq_true', Bool.not_eq_false] at hu
        simpa using undecided_inAttempt hu.2
      · exact view_congr rfl (by simp [guardPart, ha]) rfl rfl rfl

theorem endPost_closed (h : Events P) (hs : P s) : P (endPost s) := by
  unfold endPost
  split
  · split
    · exact beginAttempt_closed h hs
    · exact h.enter _ _ (fun e => nomatch e) hs
  all_goals exact h.enter _ _ (fun e => nomatch e) hs

/-- A passage to a state of an attempt starts in one. -/
theorem goto_inAttempt {st : SupState} (hp : .goto st ∈ passages s) (h : st.inAttempt = true) :
    s.seq.sup.inAttempt = true := by
  unfold passages at hp
  cases e : s.seq.sup <;> first | rfl | (exfalso; simp [e, passageIf] at hp; try (rw [hp.2] at h; cases h))

theorem takePassage_closed (h : Events P) (p : Passage)
    (hp : ∀ st, p = .goto st → st.inAttempt = true → s.seq.sup.inAttempt = true) (hs : P s) : P (takePassage p s) := by
  cases p with
  | begin => exact beginAttempt_closed h hs
  | goto st => exact h.enter _ _ (hp st rfl) hs
  | decide o => exact decide_closed h o hs
  | spill => exact decide_closed h _ (onFlue_closed h _ (latch_closed h _ hs))
  | endPost => exact endPost_closed h hs

theorem markFlame_closed (h : Events P) (hs : P s) : P (markFlame s) := by
  unfold markFlame
  split
  · exact h.silent s _ rfl hs
  · exact hs

theorem seqLoop_closed (h : Events P) (n : Nat) : ∀ {s}, P s → P (seqLoop n s) := by
  induction n with
  | zero => exact fun hs => hs
  | succ n ih =>
    intro s hs
    have hm := choose_closed h (passages (markFlame s)) (markFlame_closed h hs)
    unfold seqLoop
    split
    · next p s1 e =>
      rw [e] at hm
      refine ih (takePassage_closed h p (fun st hst ha => ?_) hm)
      have h1 : (passages (markFlame s))[(pick (passages (markFlame s)).length (markFlame s)).1]? = some p :=
        congrArg Prod.fst e
      have h2 : (pick (passages (markFlame s)).length (markFlame s)).2 = s1 := congrArg Prod.snd e
      have h3 := goto_inAttempt (hst ▸ List.mem_of_getElem? h1) ha
      rw [← h2]
      simpa using h3
    · next s1 e => rw [e] at hm; exact hm

theorem seqEvent_closed (h : Events P) (hs : P s) : P (seqEvent s) := seqLoop_closed h 12 hs

theorem decideNow_closed (h : Events P) (o : AttemptEnd) (hs : P s) : P (decideNow o s) :=
  seqEvent_closed h (decide_closed h o hs)

theorem oilEvent_closed (h : Events P) (hs : P s) : P (oilEvent s) := by
  unfold oilEvent
  split
  all_goals first
    | exact seqEvent_closed h (h.refresh _ (h.silent s _ rfl hs))
    | exact seqEvent_closed h hs

theorem flueEvent_closed (h : Events P) (hs : P s) : P (flueEvent s) := by
  unfold flueEvent
  split
  · next e => exact seqEvent_closed h (h.enter _ _ (fun _ => by rw [e.1]; rfl) hs)
  · exact seqEvent_closed h hs

theorem draughtEvent_closed (h : Events P) (hs : P s) : P (draughtEvent s) := by
  unfold draughtEvent
  split
  all_goals first | exact proofTest_closed h hs | exact lossTest_closed h hs | exact hs

theorem diverterEvent_closed (h : Events P) (hs : P s) : P (diverterEvent s) := by
  unfold diverterEvent
  repeat' split
  all_goals first | exact onFlue_closed h _ hs | exact seqEvent_closed h hs | exact hs

theorem factoryFaultEvent_closed (h : Events P) (hs : P s) : P (factoryFaultEvent s) := by
  have h1 : P { s with lock := { s.lock with factoryFault := true } } := h.silent s _ rfl hs
  unfold factoryFaultEvent
  dsimp only
  split
  all_goals first | exact h.enter _ _ (fun e => nomatch e) h1 | exact decideNow_closed h _ h1 | exact h1

theorem leaveLock_closed (h : Events P) (hs : P s) : P (leaveLock s) :=
  seqEvent_closed h (h.enter _ _ (fun e => by split at e <;> cases e) (h.silent s _ rfl hs))

/-! ### The Demand Unit and the Frost Watch -/

theorem afterDemand_closed (h : Events P) (d : Demand) (hs : P s) : P (afterDemand d s) := by
  unfold afterDemand
  repeat' split
  · exact hs
  · exact seqEvent_closed h (h.refresh _ hs)
  · exact seqEvent_closed h hs

theorem demandEvent_closed (h : Events P) (hs : P s) : P (demandEvent s) :=
  afterDemand_closed h _ (onDemand_closed h _ (onDemand_closed h _ hs))

theorem rateEvent_closed (h : Events P) (hs : P s) : P (rateEvent s) := afterDemand_closed h _ (onDemand_closed h _ hs)

theorem reclampEvent_closed (h : Events P) (hs : P s) : P (reclampEvent s) := by
  unfold reclampEvent
  dsimp only
  split
  · exact demandEvent_closed h hs
  · exact demandEvent_closed h (onDemand_closed h _ hs)

theorem queueHold_closed (h : Events P) (z : Fin 6) (v : Bool) (hs : P s) : P (queueHold z v s) := by
  unfold queueHold
  split
  · exact h.queue _ _ _ hs
  · exact hs

theorem releaseStation_closed (h : Events P) (z : Fin 6) (v : Bool) (hs : P s) : P (releaseStation z v s) := by
  unfold releaseStation
  repeat' split
  all_goals first | exact hs | exact h.queue _ _ _ hs

theorem beginHold_closed (h : Events P) (z : Fin 6) (hs : P s) : P (beginHold z s) :=
  onZone_closed h _ _ (queueHold_closed h _ _ (queueHold_closed h _ _ hs))

theorem stopHold_closed (h : Events P) (z : Fin 6) (hs : P s) : P (stopHold z s) :=
  releaseStation_closed h _ _ (releaseStation_closed h _ _ (onZone_closed h _ _ hs))

theorem setZone_closed (h : Events P) (z : Fin 6) (st : ZoneState) (hs : P s) : P (setZone z st s) := by
  have h1 := onZone_closed h z (fun w => { w with state := st }) hs
  unfold setZone
  dsimp only
  repeat' split
  · exact beginHold_closed h _ h1
  · exact stopHold_closed h _ h1
  · exact h1

theorem zoneSample_closed (h : Events P) (z : Fin 6) (b : Bool) (f : Int) (hs : P s) : P (zoneSample z b f s) := by
  unfold zoneSample
  dsimp only
  repeat' split
  · exact latch_closed h _ (setZone_closed h _ _ (onZone_closed h _ _ hs))
  · exact setZone_closed h _ _ (onZone_closed h _ _ hs)
  · exact onZone_closed h _ _ hs

theorem enterSensorless_closed (h : Events P) (z : Fin 6) (hs : P s) : P (enterSensorless z s) := by
  unfold enterSensorless
  split
  all_goals first | exact onZone_closed h _ _ hs | exact hs

theorem leaveSensorless_closed (h : Events P) (z : Fin 6) (hs : P s) : P (leaveSensorless z s) := by
  have h1 := fun st f => setZone_closed h z st (onZone_closed h z f hs)
  unfold leaveSensorless
  dsimp only
  split
  · exact latch_closed h _ (h1 _ _)
  · exact h1 _ _

theorem zoneEvent_closed (h : Events P) (z : Fin 6) (b : Option Bool) (hs : P s) : P (zoneEvent z b s) := by
  unfold zoneEvent
  repeat' split
  all_goals first
    | exact hs
    | exact enterSensorless_closed h _ hs
    | exact leaveSensorless_closed h _ hs
    | exact zoneSample_closed h _ _ _ hs

theorem boilerCallEvent_closed (h : Events P) (hs : P s) : P (boilerCallEvent s) := by
  unfold boilerCallEvent
  split
  · exact hs
  · exact seqEvent_closed h (h.silent s _ rfl hs)

theorem zoneCallEvent_closed (h : Events P) (hs : P s) : P (zoneCallEvent s) := by
  unfold zoneCallEvent
  split
  · exact hs
  · exact seqEvent_closed h (h.silent s _ rfl hs)

theorem beginPeriod_closed (h : Events P) (z : Fin 6) (hs : P s) : P (beginPeriod z s) := by
  unfold beginPeriod
  dsimp only
  split
  · exact onZone_closed h _ _ (setZone_closed h _ _ (onZone_closed h _ _ hs))
  · exact onZone_closed h _ _ hs

theorem endOnPeriod_closed (h : Events P) (z : Fin 6) (hs : P s) : P (endOnPeriod z s) :=
  setZone_closed h _ _ (onZone_closed h _ _ hs)

theorem stopIdleRefresh_closed (h : Events P) (z : Fin 6) (hs : P s) : P (stopIdleRefresh z s) := by
  unfold stopIdleRefresh
  split
  · exact hs
  · exact onZone_closed h _ _ hs

theorem refreshOwed_closed (h : Events P) (z : Fin 6) (v : Bool) (hs : P s) : P (refreshOwed z v s) := by
  unfold refreshOwed
  repeat' split
  all_goals first | exact hs | exact onZone_closed h _ _ hs | exact h.queue _ _ _ hs

theorem refreshZone_closed (h : Events P) (z : Fin 6) (hs : P s) : P (refreshZone z s) := by
  have h1 := onZone_closed h z (fun w => { w with refresh := startSec s 60 }) hs
  unfold refreshZone
  dsimp only
  refine stopIdleRefresh_closed h _ (refreshOwed_closed h _ _ (refreshOwed_closed h _ _ ?_))
  split
  · exact queueHold_closed h _ _ (queueHold_closed h _ _ h1)
  · exact h1

theorem releaseForRewrite_closed (h : Events P) (z : Fin 6) (hs : P s) : P (releaseForRewrite z s) := by
  unfold releaseForRewrite
  split
  · exact setZone_closed h _ _ hs
  · exact hs

theorem restartZone_closed (h : Events P) (z : Fin 6) (hs : P s) : P (restartZone z s) := onZone_closed h _ _ hs

theorem owe_closed (h : Events P) (n : Nat) (f : FrostFrame) (hs : P s) : P (owe n f s) := onZone_closed h _ _ hs

theorem frostDelivered_closed (h : Events P) (n : Nat) (f : FrostFrame) (hs : P s) : P (frostDelivered n f s) := by
  unfold frostDelivered
  split
  · exact stopIdleRefresh_closed h _ (onZone_closed h _ _ hs)
  · exact hs

theorem frostLost_closed (h : Events P) (n : Nat) (f : FrostFrame) (hs : P s) : P (frostLost n f s) := by
  unfold frostLost
  split
  · exact owe_closed h _ _ hs
  · exact hs

/-! ### Reactions -/

theorem scheduleEvent_closed (h : Events P) (hs : P s) : P (scheduleEvent s) := by
  unfold scheduleEvent
  dsimp only
  refine seqEvent_closed h (h.refresh _ ?_)
  split
  · exact h.silent s _ rfl hs
  · exact hs

theorem runTask_closed (h : Closed P) (t : Task) (hs : P s) : P (runTask t s).1 := by
  cases t with
  | sample k b => exact h.sample _ k b hs
  | forward d n k p => exact offer_closed h.toEvents _ rfl hs
  | sequencer => exact seqEvent_closed h.toEvents hs
  | heater => exact oilEvent_closed h.toEvents hs
  | flue => exact flueEvent_closed h.toEvents hs
  | draught => exact draughtEvent_closed h.toEvents hs
  | diverter => exact diverterEvent_closed h.toEvents hs
  | demand => exact demandEvent_closed h.toEvents hs
  | reclamp => exact reclampEvent_closed h.toEvents hs
  | rate => exact rateEvent_closed h.toEvents hs
  | schedule => exact scheduleEvent_closed h.toEvents hs
  | boilerCall => exact boilerCallEvent_closed h.toEvents hs
  | zoneCall => exact zoneCallEvent_closed h.toEvents hs
  | zone z b => exact zoneEvent_closed h.toEvents z b hs
  | rebind k => exact h.rebind _ k hs
  | storeFault => exact decideNow_closed h.toEvents _ hs

theorem runTasks_closed (h : Closed P) (n : Nat) : ∀ {ts s}, P s → P (runTasks n ts s) := by
  induction n with
  | zero => exact fun hs => hs
  | succ n ih =>
    intro ts s hs
    unfold runTasks
    split
    · exact hs
    · exact ih (runTask_closed h _ (pick_closed h.toEvents _ hs))

theorem reactTo_closed (h : Closed P) (ts : List Task) (hs : P s) : P (reactTo ts s) := runTasks_closed h 200 hs

theorem forEachFreely_closed {α : Type} (h : Events P) {f : α → State → State} (hf : ∀ x s, P s → P (f x s)) (n : Nat) :
    ∀ {l s}, P s → P (forEachFreely f n l s) := by
  induction n with
  | zero => exact fun hs => hs
  | succ n ih =>
    intro l s hs
    unfold forEachFreely
    split
    · exact hs
    · exact ih (hf _ _ (pick_closed h _ hs))

theorem foldl_closed {α : Type} {f : State → α → State} {l : List α} (hf : ∀ s, ∀ x ∈ l, P s → P (f s x)) :
    ∀ {s}, P s → P (l.foldl f s) := by
  induction l with
  | nil => exact fun hs => hs
  | cons x l ih =>
    intro s hs
    exact ih (fun s y hy => hf s y (List.mem_cons_of_mem _ hy)) (hf s x (List.mem_cons_self ..) hs)

/-! ### The Table Store -/

theorem fromStore_not_deferred (s : State) (p : Nat) : (fromStore s p).deferred = false := by
  unfold fromStore
  split <;> rfl

theorem installDeferred_closed (h : Closed P) (hs : P s) : P (installDeferred s) := by
  unfold installDeferred
  split
  · exact hs
  · refine h.install _ _ _ ?_ ?_ hs
    · rw [List.length_map]
      exact Nat.le_trans (List.length_filter_le _ _) (by simp)
    intro x hx
    obtain ⟨p, _, rfl⟩ := List.mem_map.mp hx
    exact fromStore_not_deferred s p

theorem settle_closed (h : Closed P) (st : SupState) (hs : P s) : P (settle st s) := by
  unfold settle
  split
  · exact installDeferred_closed h hs
  · exact hs

theorem beforeValidation_closed (h : Closed P) (hs : P s) : P (beforeValidation s) := by
  unfold beforeValidation
  split
  · exact installDeferred_closed h hs
  · exact hs

theorem onStore_op_closed (h : Closed P) (f : Store → Store)
    (hf : ∀ t, (f t).stored = t.stored ∧ (f t).factory = t.factory ∧ (f t).copies = t.copies ∧ (f t).pendingRec = t.pendingRec)
    (hs : P s) : P (onStore f s) := by
  obtain ⟨h1, h2, h3, h4⟩ := hf s.store
  refine h.silent s _ ?_ hs
  simp [view, outside, fixedPart, settings, copyOf, queuesPart, guardPart, onStore, h1, h2, h3, h4]

theorem sweepOn_closed (h : Closed P) (hs : P s) : P (sweepOn s) :=
  onStore_op_closed h _ (fun _ => ⟨rfl, rfl, rfl, rfl⟩) hs

theorem factoryFails_closed (h : Closed P) (hs : P s) : P (factoryFails s) :=
  factoryFaultEvent_closed h.toEvents (latch_closed h.toEvents _ hs)

theorem checkPaged_closed (h : Closed P) (p : Nat) (hs : P s) : P (checkPaged p s) := by
  unfold checkPaged
  dsimp only
  have h1 : P (if (factoryOf s p).ok then s else factoryFails s) := by
    split
    · exact hs
    · exact factoryFails_closed h hs
  revert h1
  generalize (if (factoryOf s p).ok then s else factoryFails s) = u
  intro h1
  repeat' split
  · exact onStore_op_closed h _ (fun _ => ⟨rfl, rfl, rfl, rfl⟩) (latch_closed h.toEvents _ h1)
  · exact sweepOn_closed h h1
  · refine h.install _ _ _ (by simp) ?_ (latch_closed h.toEvents _ (sweepOn_closed h h1))
    intro x hx
    rw [List.mem_singleton.mp hx]
    exact fromStore_not_deferred _ p
  · exact sweepOn_closed h h1

theorem loseRecord_closed (h : Closed P) (hs : P s) : P (loseRecord s) :=
  emptyHistory_closed h.toEvents (changeLock_closed h.toEvents _ hs)

theorem checkRecord_closed (h : Closed P) {p : Nat} (h1 : 14 ≤ p) (h2 : p ≤ 18) (hs : P s) : P (checkRecord p s) := by
  unfold checkRecord
  repeat' split
  · exact hs
  · exact latch_closed h.toEvents _ (h.record _ _ _ h1 rfl hs)
  · exact latch_closed h.toEvents _ (h.ask _ p h1 h2 hs)
  · exact latch_closed h.toEvents _ (loseRecord_closed h hs)
  · exact latch_closed h.toEvents _ (changeRecord_closed h.toEvents h1 h2 _ hs)

theorem checkFixed_closed (h : Closed P) {p : Nat} (h1 : 14 ≤ p) (hs : P s) : P (checkFixed p s) := by
  unfold checkFixed
  repeat' split
  · exact hs
  · exact latch_closed h.toEvents _ (h.record _ _ _ h1 rfl hs)
  · exact factoryFails_closed h hs

theorem checkPage_closed (h : Closed P) (p : Nat) (hs : P s) : P (checkPage p s) := by
  unfold checkPage
  split
  · exact checkPaged_closed h p hs
  · split
    · exact sweepOn_closed h (checkRecord_closed h (by omega) (by omega) hs)
    · exact sweepOn_closed h (checkFixed_closed h (by omega) hs)

/-! ### Properties that any channel and any copy keep -/

/-- Where any change of a channel and any working copy not deferred keep a property of the events, it is closed. -/
theorem Closed.ofParts (h : Events P) (hc : ∀ s k c, P s → P (setChan k c s))
    (hp : ∀ s p c, c.deferred = false → P s → P (setCopy p c s)) : Closed P := by
  have sample : ∀ s k b, P s → P (sampleChannel k b s).1 := by
    intro s k b hs
    unfold sampleChannel
    split
    · exact hs
    · dsimp only
      split
      · exact latch_closed h _ (hc _ _ _ hs)
      · exact hc _ _ _ hs
  have run : ∀ t s, P s → P (runTask t s).1 := by
    intro t s hs
    cases t with
    | sample k b => exact sample s k b hs
    | forward d n k p => exact offer_closed h _ rfl hs
    | sequencer => exact seqEvent_closed h hs
    | heater => exact oilEvent_closed h hs
    | flue => exact flueEvent_closed h hs
    | draught => exact draughtEvent_closed h hs
    | diverter => exact diverterEvent_closed h hs
    | demand => exact demandEvent_closed h hs
    | reclamp => exact reclampEvent_closed h hs
    | rate => exact rateEvent_closed h hs
    | schedule => exact scheduleEvent_closed h hs
    | boilerCall => exact boilerCallEvent_closed h hs
    | zoneCall => exact zoneCallEvent_closed h hs
    | zone z b => exact zoneEvent_closed h z b hs
    | rebind k => exact hc _ _ _ hs
    | storeFault => exact decideNow_closed h _ hs
  have runs : ∀ n ts s, P s → P (runTasks n ts s) := by
    intro n
    induction n with
    | zero => exact fun ts s hs => hs
    | succ n ih =>
      intro ts s hs
      unfold runTasks
      split
      · exact hs
      · exact ih _ _ (run _ _ (pick_closed h _ hs))
  refine { h with sample := sample, rebind := fun s k hs => hc _ _ _ hs, stale := fun s k c _ hs => hc _ _ _ hs, install := ?_ }
  intro s l r _ hl hs
  refine runs 200 _ _ ?_
  unfold replaceCopies
  dsimp only
  refine foldl_closed (fun s z _ hs => restartZone_closed h z hs) ?_
  refine foldl_closed (fun s x hx hs => hp _ _ _ (hl x hx) hs) ?_
  exact forEachFreely_closed h (fun z s hs => releaseForRewrite_closed h z hs) 6 hs

end Sys2Proof.Machine
end

