-- ==== Sys2Proof/Laws/Commands.lean ====
section
/-! SUPPORT. A property closed under the primitive changes is kept by the commands: by most of them with
`Closed`, by those that start or end a try with `LineClosed`, by all of them with `StoreClosed`. -/

namespace Sys2Proof.Machine

/-- Closed, and kept by what the ports' tries and the queues' heads do. -/
structure LineClosed (P : State → Prop) : Prop extends Closed P where
  line : ∀ s t, lineView t = lineView s → P s → P t
  utqHead : ∀ s e rest b r, s.relay.utq = e :: rest → P s → P (setUtq ({ e with onLine := b, renewed := r } :: rest) s)
  utqDrop : ∀ s e rest, s.relay.utq = e :: rest → P s → P (setUtq rest s)
  utqNil : ∀ s, P s → P (setUtq [] s)
  frostHead : ∀ s e rest n b, s.arb.frostQ = e :: rest → P s →
    P (onArb (fun a => { a with frostQ := { e with tries := n, inFlight := b } :: rest }) s)
  frostLeave : ∀ s e rest, s.arb.frostQ = e :: rest → P s →
    P (onArb (fun a => { a with frostQ := leaveEntry (e :: rest) }) s)
  frostNil : ∀ s, P s → P (onArb (fun a => { a with frostQ := [] }) s)

/-- Line-closed, and kept by the writes of the store, the restarts and the link. -/
structure StoreClosed (P : State → Prop) : Prop extends LineClosed P where
  pop : ∀ s p rest, s.store.pendingRec = p :: rest → P s → P (onStore (fun t => { t with pendingRec := rest }) s)
  stored : ∀ s p i, P s → P (setStored p i s)
  defer : ∀ s p, P s → P (deferCopy s p)
  link : ∀ s b, P s → P { s with link := b }
  restart : ∀ s n up field, up.trying = none → field.trying = none → P s → P (Machine.start n up field s)
  lose : ∀ s, P s → P (losePower s)

variable {P : State → Prop} {s t : State}

/-! ### The frame of a meaning -/

theorem act_eq_next {f : State → State} : act f s = .next t ↔ (if s.powered then f s else s) = t := by
  simp [act]

theorem react_eq_next {f : State → State} :
    react f s = .next t ↔ (if s.powered then renewOrder (settle s.seq.sup (f s)) else s) = t := by
  simp [react, act]

/-- A powered part always answers a reacting command. -/
theorem react_powered {f : State → State} (hp : s.powered = true) :
    react f s = .next (renewOrder (settle s.seq.sup (f s))) := by simp [react, act, hp]

/-- Without supply a reacting command changes nothing. -/
theorem react_unpowered {f : State → State} (hp : s.powered = false) : react f s = .next s := by simp [react, act, hp]

/-- Where the supervisor state is the one the command met, nothing is installed at its end. -/
theorem settle_same {st : SupState} (h : s.seq.sup = st) : settle st s = s := by simp [settle, h]

/-- Outside STBY, LOCK and FLCK nothing is installed at a command's end. -/
theorem settle_active {st : SupState} (h : s.seq.sup.quiet = false) : settle st s = s := by simp [settle, h]

/-- With no deferred copy nothing is installed at a command's end. -/
theorem settle_none {st : SupState} (h : deferredPages s = []) : settle st s = s := by
  simp [settle, installDeferred, h]

theorem react_closed (h : Closed P) {f : State → State} (he : react f s = .next t) (hs : P s) (hf : P s → P (f s)) : P t := by
  rw [react_eq_next] at he
  subst he
  split
  · exact renewOrder_closed h.toEvents (settle_closed h _ (hf hs))
  · exact hs

theorem whenDue_closed {f : State → State} (hf : ∀ s, P s → P (f s)) (w : Timer) (hs : P s) : P (whenDue w f s) := by
  unfold whenDue
  split
  · exact hf s hs
  · exact hs

/-! ### Ports and frames -/

theorem onPort_closed (h : Closed P) (id : PortId) (f : Port → Port) (hf : ∀ p, (f p).trying = p.trying) (hs : P s) :
    P (onPort id f s) := by
  refine h.silent s _ ?_ hs
  cases id <;> simp [view, outside, fixedPart, settings, copyOf, queuesPart, guardPart, onPort, hf]

theorem heardField_closed (h : Closed P) (id : PortId) (hs : P s) : P (heardField id s) := by
  unfold heardField
  split
  · exact h.silent s _ rfl hs
  · exact hs

theorem complete_closed (h : Closed P) (id : PortId) (a : Option Ack) (hs : P s) : P (complete id a s) :=
  heardField_closed h id (onPort_closed h id _ (fun _ => by split <;> rfl) hs)

theorem followAck_closed (h : Closed P) (id : PortId) (hs : P s) : P (followAck id s) :=
  heardField_closed h id (onPort_closed h id _ (fun _ => rfl) hs)

theorem passBy_closed (h : Closed P) (id : PortId) (hs : P s) : P (passBy id s) := by
  unfold passBy
  split
  · exact complete_closed h id _ (pick_closed h.toEvents _ hs)
  · exact followAck_closed h id (pick_closed h.toEvents _ hs)

theorem hearTraffic_closed (h : Closed P) (id : PortId) (hs : P s) : P (hearTraffic id s) :=
  onPort_closed h id _ (fun _ => by split <;> rfl) hs

theorem hearHold_closed (h : Closed P) (id : PortId) (hs : P s) : P (hearHold id s) :=
  onPort_closed h id _ (fun _ => by split <;> rfl) hs

theorem abandon_closed (h : Closed P) (id : PortId) (hs : P s) : P (abandon id s) :=
  onPort_closed h id _ (fun _ => rfl) hs

theorem onFrame_closed (h : Closed P) (id : PortId) (b : Bool) {f : State → State} (hf : P s → P (f s)) (hs : P s) :
    P (onFrame id b f s) := by
  unfold onFrame
  repeat' split
  · exact hf hs
  · exact abandon_closed h id hs
  · exact hearTraffic_closed h id hs

theorem setRefusal_closed (h : Closed P) (o d : Nat) (c : Option Nat) (r : RefusalReason) (hs : P s) :
    P (setRefusal o d c r s) := h.silent s _ rfl hs

theorem refuseNotManaging_closed (h : Closed P) (id : PortId) (n : Nat) (hs : P s) : P (refuseNotManaging id n s) :=
  setRefusal_closed h _ _ _ _ (complete_closed h _ _ hs)

theorem releaseHold_closed (h : Closed P) (a : Ack) (hs : P s) : P (releaseHold a s) := by
  have h1 := pick_closed h.toEvents 2 hs
  unfold releaseHold
  dsimp only
  repeat' split
  · exact onPort_closed h .upstream (toAnswered .upstream a (pick 2 s).2) (fun _ => rfl) h1
  · exact onPort_closed h .upstream (fun p => { toWaiting .upstream (pick 2 s).2 p with answer := none }) (fun _ => rfl) h1
  · exact hs

/-! ### The Management Unit -/

theorem respond_closed (h : Closed P) (c : Nat) (st : Status) (d : List Byte) (hs : P s) : P (respond c st d s) :=
  offer_closed h.toEvents _ rfl (onMgmt_closed h.toEvents _ hs)

theorem request_closed (h : Closed P) (b : Bool) {f : State → State} (hf : ∀ s, P s → P (f s)) (hs : P s) :
    P (request b f s) := by
  unfold request
  refine onFrame_closed h _ _ (fun hs => ?_) hs
  repeat' split
  · exact hf _ (onMgmt_closed h.toEvents _ (complete_closed h _ _ hs))
  · exact complete_closed h _ _ hs
  · exact complete_closed h _ _ hs

theorem setTransfer_closed (h : Closed P) (x : Transfer) (hs : P s) : P (setTransfer x s) := onMgmt_closed h.toEvents _ hs

theorem onStore_silent (h : Closed P) (f : Store → Store)
    (h1 : (f s.store).stored = s.store.stored) (h2 : (f s.store).factory = s.store.factory)
    (h3 : (f s.store).copies = s.store.copies) (h4 : (f s.store).pendingRec = s.store.pendingRec) (hs : P s) :
    P (onStore f s) := by
  refine h.silent s _ ?_ hs
  simp [view, outside, fixedPart, settings, copyOf, queuesPart, guardPart, onStore, h1, h2, h3, h4]

theorem closeTransfer_closed (h : Closed P) (hs : P s) : P (closeTransfer s) :=
  onStore_silent h _ rfl rfl rfl rfl (setTransfer_closed h _ hs)

theorem turnDown_closed (h : Closed P) (st : Status) (hs : P s) : P (turnDown st s) :=
  respond_closed h _ _ _ (closeTransfer_closed h hs)

theorem answerRejected_closed (h : Closed P) (c : Nat) (r : RejectReason) (hs : P s) : P (answerRejected c r s) :=
  inEitherOrder_closed h.toEvents (fun _ hs => rejectPage_closed h.toEvents r hs) (fun _ hs => respond_closed h _ _ _ hs) hs

theorem acceptWrite_closed (h : Closed P) (p n : Nat) (c : MgmtClaim) (hs : P s) : P (acceptWrite p n c s) :=
  onStore_silent h _ rfl rfl rfl rfl (setTransfer_closed h _ hs)

theorem holdIdentity_closed (h : Closed P) (n : Nat) (hs : P s) : P (holdIdentity n s) :=
  respond_closed h _ _ _ (setTransfer_closed h _ (onStore_silent h _ rfl rfl rfl rfl hs))

theorem rejection_closed (h : Closed P) (l : List RejectReason) (hs : P s) : P (rejection l s).2 := choose_closed h.toEvents l hs

theorem judgeLoad_closed (h : Closed P) (p n : Nat) (hs : P s) : P (judgeLoad p n s) := by
  unfold judgeLoad
  split
  · exact turnDown_closed h _ hs
  · dsimp only
    have h1 := beforeValidation_closed h hs
    split
    · next e =>
      have h2 := congrArg Prod.snd e ▸ rejection_closed h _ h1
      exact answerRejected_closed h _ _ (closeTransfer_closed h h2)
    · next e =>
      have h2 := congrArg Prod.snd e ▸ rejection_closed h _ h1
      repeat' split
      all_goals first | exact holdIdentity_closed h _ h2 | exact acceptWrite_closed h _ _ _ h2

theorem chunkRequest_closed (h : Closed P) (i : Nat) (d : List Byte) (hs : P s) : P (chunkRequest i d s) := by
  have hb : P (loadChunk i d s) := onMgmt_closed h.toEvents _ hs
  unfold chunkRequest
  split
  · exact respond_closed h _ _ _ hs
  · unfold chunkLoading
    repeat' split
    · exact respond_closed h _ _ _ hs
    · exact respond_closed h _ _ _ (setTransfer_closed h _ hb)
    · exact judgeLoad_closed h _ _ hb
  · unfold chunkFetching
    split
    · exact respond_closed h _ _ _ hs
    · split
      · exact onStore_silent h _ rfl rfl rfl rfl (setTransfer_closed h _ hs)
      · refine respond_closed h _ _ _ ?_
        split
        · unfold endFetchedPage
          split
          · exact closeTransfer_closed h hs
          · exact setTransfer_closed h _ hs
        · exact setTransfer_closed h _ hs
  · exact respond_closed h _ _ _ hs

theorem openRequest_closed (h : Closed P) (d f c : Nat) (hs : P s) : P (openRequest d f c s) := by
  unfold openRequest
  split
  · exact respond_closed h _ _ _ hs
  · exact respond_closed h _ _ _ (setTransfer_closed h _ (closeTransfer_closed h hs))

theorem eraseRequest_closed (h : Closed P) (p : Nat) (hs : P s) : P (eraseRequest p s) := by
  unfold eraseRequest
  split
  · exact respond_closed h _ _ _ hs
  · dsimp only
    have h1 := beforeValidation_closed h hs
    split
    · next e =>
      have h2 := congrArg Prod.snd e ▸ rejection_closed h _ h1
      exact answerRejected_closed h _ _ h2
    · next e =>
      have h2 := congrArg Prod.snd e ▸ rejection_closed h _ h1
      exact onStore_silent h _ rfl rfl rfl rfl h2

theorem answerWritten_closed (h : Closed P) (hs : P s) : P (answerWritten s) := by
  have h1 := respond_closed h codeChnk .done [3] hs
  unfold answerWritten
  dsimp only
  split
  · unfold endLoadedPage
    split
    · exact closeTransfer_closed h h1
    · exact setTransfer_closed h _ h1
  all_goals exact h1

theorem answerFetched_closed (h : Closed P) (p : Nat) (hs : P s) : P (answerFetched p s) := by
  unfold answerFetched
  dsimp only
  refine respond_closed h _ _ _ ?_
  split
  · exact setTransfer_closed h _ (onMgmt_closed h.toEvents _ hs)
  all_goals exact onMgmt_closed h.toEvents _ hs

theorem resetRequest_closed (h : Closed P) (hs : P s) : P (resetRequest s) := by
  unfold resetRequest
  repeat' split
  · exact respond_closed h _ _ _ hs
  · exact inEitherOrder_closed h.toEvents (fun _ hs => latch_closed h.toEvents _ hs) (fun _ hs => respond_closed h _ _ _ hs) hs
  · exact leaveLock_closed h.toEvents (onMgmt_closed h.toEvents _ (changeLock_closed h.toEvents _ hs))

theorem recordWritten_closed (h : Closed P) (p : Nat) (hs : P s) : P (recordWritten p s) := by
  unfold recordWritten
  repeat' split
  all_goals first
    | exact hs
    | exact respond_closed h _ _ _ (onMgmt_closed h.toEvents _ hs)
    | exact onMgmt_closed h.toEvents _ hs

/-! ### The ports' tries and their owners -/

theorem onPort_line (h : LineClosed P) (id : PortId) (f : Port → Port) (hs : P s) : P (onPort id f s) :=
  h.line s _ (by cases id <;> rfl) hs

theorem onArb_line (h : LineClosed P) (f : Arbiter → Arbiter) (hf : (f s.arb).frostQ = s.arb.frostQ) (hs : P s) :
    P (onArb f s) :=
  h.line s _ (by simp [lineView, outside, fixedPart, settings, copyOf, queuesPart, hf]) hs

theorem onRelay_silent (h : Closed P) (f : Relay → Relay) (hf : (f s.relay).utq = s.relay.utq) (hs : P s) :
    P (onRelay f s) :=
  h.silent s _ (by simp [view, outside, fixedPart, settings, copyOf, queuesPart, guardPart, hf]) hs

theorem startTry_closed (h : LineClosed P) (id : PortId) (o : Owner) (f : Frame) (hs : P s) : P (startTry id o f s) :=
  onPort_line h _ _ hs

theorem sendMark_closed (h : LineClosed P) (i : Nat) (hs : P s) : P (sendMark i s) :=
  startTry_closed h _ _ _ (onArb_line h _ rfl hs)

theorem sendRelay_closed (h : LineClosed P) (x : SlotFrame) (hs : P s) : P (sendRelay x s) :=
  startTry_closed h _ _ _ (onRelay_silent h.toClosed _ rfl hs)

theorem sendSet_closed (h : LineClosed P) (x : InFlight) (hs : P s) : P (sendSet x s) :=
  startTry_closed h _ _ _ (onArb_line h _ rfl hs)

theorem grantFirst_closed (h : LineClosed P) (hs : P s) : P (grantFirst s) := by
  unfold grantFirst
  split
  · exact sendSet_closed h _ hs
  · exact sendMark_closed h _ hs
  · exact sendRelay_closed h _ hs
  · next e rest _ _ _ hq =>
    split
    · exact hs
    · exact startTry_closed h _ _ _ (h.frostHead s e rest e.tries true hq hs)
  · exact hs

theorem sendAgain_closed (h : LineClosed P) (x : Try) (hs : P s) : P (sendAgain x s) := by
  unfold sendAgain
  repeat' split
  all_goals first
    | exact sendMark_closed h _ hs
    | exact sendRelay_closed h _ hs
    | exact startTry_closed h _ _ _ hs
    | exact onPort_line h _ _ hs

theorem sendHead_closed (h : LineClosed P) (hs : P s) : P (sendHead s) := by
  unfold sendHead
  split
  · exact hs
  · next e rest hq => exact startTry_closed h _ _ _ (h.utqHead s e rest true e.renewed hq hs)

theorem giveUpSet_closed (h : LineClosed P) (x : InFlight) (hs : P s) : P (giveUpSet x s) := by
  have h1 : P (onArb (fun a => { a with inFlight := none }) s) := onArb_line h _ rfl hs
  unfold giveUpSet
  dsimp only
  split
  · exact decideNow_closed h.toClosed.toEvents _ h1
  · refine latch_closed h.toClosed.toEvents _ (h.silent _ _ ?_ h1)
    rfl

theorem sequencerResult_closed (h : LineClosed P) (r : TryResult) (hs : P s) : P (sequencerResult r s) := by
  unfold sequencerResult
  repeat' split
  all_goals first
    | exact hs
    | exact onArb_line h _ rfl hs
    | exact giveUpSet_closed h _ hs

theorem markResult_closed (h : LineClosed P) (r : TryResult) (hs : P s) : P (markResult r s) := by
  unfold markResult
  split
  all_goals exact onArb_line h _ rfl hs

theorem answerRelay_closed (h : LineClosed P) (a : Ack) (hs : P s) : P (answerRelay a s) :=
  releaseHold_closed h.toClosed a (onRelay_silent h.toClosed _ rfl (onArb_line h _ rfl hs))

theorem recordResult_closed (h : LineClosed P) (c : RelayRecord) (r : TryResult) (hs : P s) : P (recordResult c r s) := by
  unfold recordResult
  repeat' split
  all_goals first
    | exact answerRelay_closed h _ hs
    | exact onRelay_silent h.toClosed _ rfl hs
    | exact latch_closed h.toClosed.toEvents _ (answerRelay_closed h _ hs)
    | exact hs

theorem relayResult_closed (h : LineClosed P) (r : TryResult) (hs : P s) : P (relayResult r s) := by
  unfold relayResult
  repeat' split
  all_goals first
    | exact hs
    | exact onArb_line h _ rfl hs
    | exact recordResult_closed h _ _ hs

theorem frostResult_closed (h : LineClosed P) (r : TryResult) (hs : P s) : P (frostResult r s) := by
  unfold frostResult
  split
  · exact hs
  · next e rest hq =>
    dsimp only
    have h1 : P (onArb (fun a => { a with frostQ := leaveEntry (e :: rest) }) s) := h.frostLeave s e rest hq hs
    repeat' split
    · exact frostDelivered_closed h.toClosed.toEvents _ _ h1
    · exact frostLost_closed h.toClosed.toEvents _ _ h1
    · exact h1
    · exact h.frostHead s e rest _ _ hq hs
    · exact latch_closed h.toClosed.toEvents _ (frostLost_closed h.toClosed.toEvents _ _ h1)
    · exact hs
    · exact hs

theorem utqResult_closed (h : LineClosed P) (r : TryResult) (hs : P s) : P (utqResult r s) := by
  unfold utqResult
  split
  · exact hs
  · next e rest hq =>
    split
    · exact h.utqDrop s e rest hq hs
    · exact h.utqHead s e rest false false hq hs

theorem ownerResult_closed (h : LineClosed P) (x : Try) (r : TryResult) (hs : P s) : P (ownerResult x r s) := by
  unfold ownerResult
  repeat' split
  · exact hs
  · exact sequencerResult_closed h r hs
  · exact markResult_closed h r hs
  · exact relayResult_closed h r hs
  · exact frostResult_closed h r hs
  · exact utqResult_closed h r hs

theorem endTry_closed (h : LineClosed P) (id : PortId) (x : Try) (f : Port → Port) (r : TryResult) (hs : P s) :
    P (endTry id x f r s) := ownerResult_closed h x r (onPort_line h _ _ hs)

theorem loseArbitration_closed (h : LineClosed P) (id : PortId) (x : Try) (hs : P s) : P (loseArbitration id x s) := by
  unfold loseArbitration
  dsimp only
  repeat' split
  all_goals first
    | exact onPort_line h _ _ hs
    | exact markResult_closed h _ (onPort_line h _ _ hs)
    | exact onArb_line h _ rfl (onPort_line h _ _ hs)

theorem enterStuck_closed (h : LineClosed P) (id : PortId) (hs : P s) : P (enterStuck id s) := by
  have hl := fun l {s} (hs : P s) => latch_closed h.toClosed.toEvents l hs
  unfold enterStuck
  dsimp only
  split
  · exact hl _ (onPort_line h _ _ hs)
  · exact inEitherOrder_closed h.toClosed.toEvents (fun _ hs => hl _ hs) (fun _ hs => ownerResult_closed h _ _ hs) (onPort_line h _ _ hs)

theorem placeRelay_closed (h : LineClosed P) (f : Frame) (b : Bool) (hs : P s) : P (placeRelay f b s) := by
  have h1 : P (onArb (fun a => { a with relaySlot := some { frame := f, broadcast := b, late := false } }) s) :=
    onArb_line h _ rfl hs
  unfold placeRelay
  dsimp only
  split
  · exact onPort_line h _ _ h1
  · exact h1

theorem beginRelay_closed (h : LineClosed P) (f : Frame) (b : Bool) (hs : P s) : P (beginRelay f b s) := by
  refine placeRelay_closed h _ _ (h.line _ _ ?_ (onRelay_silent h.toClosed (fun r => { r with record := _ }) rfl hs))
  rfl

theorem relayLate_closed (h : LineClosed P) (c : RelayRecord) (hs : P s) : P (relayLate c s) := by
  have h1 : P (onRelay (fun r => { r with record := none }) s) := onRelay_silent h.toClosed _ rfl hs
  unfold relayLate
  dsimp only
  refine latch_closed h.toClosed.toEvents _ (releaseHold_closed h.toClosed _ ?_)
  split
  · exact onArb_line h _ rfl h1
  · exact onArb_line h _ rfl (onPort_line h _ _ h1)

/-! ### Soft Restart -/

theorem emptyFrostQueue_closed (h : LineClosed P) (hs : P s) : P (emptyFrostQueue s) := by
  unfold emptyFrostQueue
  refine foldl_closed (fun s x _ hs => ?_) (h.frostNil s hs)
  split
  · exact owe_closed h.toClosed.toEvents x.1 x.2 hs
  · exact hs

theorem softEmpty_closed (h : LineClosed P) (hs : P s) : P (softEmpty s) := by
  unfold softEmpty
  dsimp only
  refine closeTransfer_closed h.toClosed (onMgmt_closed h.toClosed.toEvents _ ?_)
  have h1 := h.utqNil _ (emptyFrostQueue_closed h (onArb_line h (fun a => { a with relaySlot := none }) rfl hs))
  refine h.silent _ _ ?_ h1
  rfl

theorem cutShort_closed (h : LineClosed P) (x : Option Try) (hs : P s) : P (cutShort x s) := by
  unfold cutShort
  repeat' split
  all_goals first
    | exact hs
    | exact sequencerResult_closed h _ hs
    | exact markResult_closed h _ hs

theorem softRestart_closed (h : LineClosed P) (hs : P s) : P (softRestart s) := by
  refine inEitherOrder_closed h.toClosed.toEvents (fun _ hs => onMgmt_closed h.toClosed.toEvents _ hs) (fun _ hs => cutShort_closed h _ hs)
    (h.line _ _ ?_ (softEmpty_closed h hs))
  rfl

theorem responseSent_closed (h : LineClosed P) (hs : P s) : P (responseSent s) := by
  unfold responseSent
  split
  all_goals first | exact onMgmt_closed h.toClosed.toEvents _ hs | exact softRestart_closed h hs

theorem trySent_closed (h : LineClosed P) (id : PortId) (x : Try) (hs : P s) : P (trySent id x s) := by
  have h1 := endTry_closed h id x (toIdle s) .sent hs
  unfold trySent
  dsimp only
  split
  · exact responseSent_closed h h1
  · exact h1

/-! ### The store port -/

/-- What the start of an operation does. -/
@[simp] theorem store_beginOp (o : StoreOp) (s : State) :
    (beginOp o s).store = { s.store with op := some o, portTimer := .running (s.now + o.portMs) } := rfl

/-- What the end of an operation does to the port. -/
@[simp] theorem store_freePort (s : State) : (freePort s).store = { s.store with op := none, portTimer := .stopped } := rfl

/-- No operation completes before its port time is over (R160). -/
theorem completing_not_due {f : StoreOp → State → State} (h : s.store.portTimer.due s.now = false) : completing f s = s := by
  simp [completing, whenDue, h]

/-- The operation in flight completes once it is. -/
theorem completing_due {f : StoreOp → State → State} {o : StoreOp} (h : s.store.portTimer.due s.now = true)
    (ho : s.store.op = some o) : completing f s = f o s := by
  simp [completing, whenDue, h, ho]

theorem freePort_closed (h : Closed P) (hs : P s) : P (freePort s) := onStore_silent h _ rfl rfl rfl rfl hs

theorem beginOp_closed (h : Closed P) (o : StoreOp) (hs : P s) : P (beginOp o s) := onStore_silent h _ rfl rfl rfl rfl hs

theorem completing_closed {f : StoreOp → State → State} (hf : ∀ o s, P s → P (f o s)) (hs : P s) : P (completing f s) := by
  refine whenDue_closed (fun s hs => ?_) _ hs
  split
  · exact hf _ _ hs
  · exact hs

theorem grantStore_closed (h : StoreClosed P) (hs : P s) : P (grantStore s) := by
  unfold grantStore
  split
  · rename_i p rest hq
    exact beginOp_closed h.toClosed _ (h.pop s p rest hq hs)
  all_goals first | exact beginOp_closed h.toClosed _ (onStore_silent h.toClosed _ rfl rfl rfl rfl hs) | exact hs

theorem installWritten_closed (h : StoreClosed P) (l : List Nat) (hn : l.length ≤ 14) (hs : P s) : P (installWritten l s) := by
  unfold installWritten
  split
  · refine h.install _ _ _ (by simpa using hn) ?_ hs
    intro x hx
    obtain ⟨p, _, rfl⟩ := List.mem_map.mp hx
    exact fromStore_not_deferred s p
  · exact foldl_closed (fun s p _ hs => h.defer s p hs) hs

theorem afterWrite_closed (h : StoreClosed P) (p : Nat) (part : PairPart) (hs : P s) : P (afterWrite p part s) := by
  unfold afterWrite
  split
  · exact onStore_silent h.toClosed _ rfl rfl rfl rfl hs
  · exact inEitherOrder_closed h.toClosed.toEvents (fun _ hs => answerWritten_closed h.toClosed hs)
      (fun _ hs => installWritten_closed h _ (by simp) hs) (onStore_silent h.toClosed _ rfl rfl rfl rfl hs)
  · exact inEitherOrder_closed h.toClosed.toEvents (fun _ hs => answerWritten_closed h.toClosed hs)
      (fun _ hs => installWritten_closed h _ (by simp) hs) hs

/-! ### Every command -/

/-- A command that writes no stored page, changes no link, restarts nothing, and neither starts nor ends a
try. -/
def plain : Instr → Bool
  | .powerUp | .powerLoss | .commissioningLinkChange _ | .fullRestartEffect | .upstreamCommand _ _ _ | .broadcastCommand _ _
  | .relayDeadlineExpiry | .arbiterGrant | .upstreamSend | .arbitrationLost _ | .collision _ | .ackByte _ _
  | .ackPositionEnd | .holdBegun | .holdLimitExpiry | .frameSent _ | .lineStuck _ | .storePortGrant
  | .recordWriteComplete | .managementWriteComplete | .eraseComplete | .repairWriteComplete => false
  | _ => true

theorem stateExpiry_closed (h : Closed P) {st : SupState} {w : PhaseTimers → Timer} {f : State → State}
    (he : stateExpiry st w f s = .next t) (hs : P s) (hf : ∀ s, P s → P (f s)) : P t := by
  refine react_closed h he hs (fun hs => ?_)
  split
  · exact whenDue_closed hf _ hs
  · exact hs

theorem reactRequest_closed (h : Closed P) {b : Bool} {f : State → State} (he : react (request b f) s = .next t) (hs : P s)
    (hf : ∀ s, P s → P (f s)) : P t := react_closed h he hs (fun hs => request_closed h _ hf hs)

theorem zoneChange_closed (h : Closed P) (z : Fin 6) {f : State → State} (hf : ∀ s, P s → P (f s)) (hs : P s) :
    P (zoneChange z f s) := by
  unfold zoneChange
  split
  · exact hf s hs
  · exact zoneCallEvent_closed h.toEvents (hf s hs)

theorem execLocalResetPush_closed (h : Closed P) (he : execLocalResetPush s = .next t) (hs : P s) : P t := by
  refine react_closed h he hs (fun hs => ?_)
  split
  · exact leaveLock_closed h.toEvents (changeLock_closed h.toEvents _ hs)
  · exact hs

theorem execSampleFrame_closed (h : Closed P) (id : PortId) (d : Nat) (n : Nat) (k : Nat) (p : List Byte)
    (he : execSampleFrame id d n k p s = .next t) (hs : P s) : P t :=
  react_closed h he hs (fun hs => onFrame_closed h _ _ (fun hs => reactTo_closed h _ (complete_closed h _ _ hs)) hs)

theorem execFreshnessExpiry_closed (h : Closed P) (k : Fin 14)
    (he : execFreshnessExpiry k s = .next t) (hs : P s) : P t := by
  refine react_closed h he hs (fun hs => whenDue_closed (fun s hs => ?_) _ hs)
  unfold expireFreshness
  dsimp only
  split
  all_goals first
    | exact reactTo_closed h _ (latch_closed h.toEvents _ (h.stale _ _ _ rfl hs))
    | exact h.stale _ _ _ rfl hs

theorem execDemandFrame_closed (h : Closed P) (n : Nat) (p : List Byte)
    (he : execDemandFrame n p s = .next t) (hs : P s) : P t := by
  refine react_closed h he hs (fun hs => onFrame_closed h _ _ (fun hs => ?_) hs)
  repeat' split
  · exact refuseNotManaging_closed h _ _ hs
  · exact complete_closed h _ _ hs
  · exact demandEvent_closed h.toEvents (onDemand_closed h.toEvents _ (complete_closed h _ _ hs))

theorem execDemandTimerExpiry_closed (h : Closed P)
    (he : execDemandTimerExpiry s = .next t) (hs : P s) : P t := by
  refine react_closed h he hs (fun hs => whenDue_closed (fun s hs => ?_) _ hs)
  unfold expireDemand
  dsimp only
  split
  · exact inEitherOrder_closed h.toEvents (fun _ hs => latch_closed h.toEvents _ hs) (fun _ hs => demandEvent_closed h.toEvents hs)
      (onDemand_closed h.toEvents _ (onDemand_closed h.toEvents _ hs))
  · exact onDemand_closed h.toEvents _ hs

theorem execChekMaximumExpiry_closed (h : Closed P)
    (he : execChekMaximumExpiry s = .next t) (hs : P s) : P t :=
  stateExpiry_closed h he hs (fun _ hs => decideNow_closed h.toEvents _ (markFlame_closed h.toEvents (onTimers_closed h.toEvents _ hs)))

theorem execPreheatTimerExpiry_closed (h : Closed P)
    (he : execPreheatTimerExpiry s = .next t) (hs : P s) : P t :=
  stateExpiry_closed h he hs (fun _ hs => seqEvent_closed h.toEvents (onTimers_closed h.toEvents _ hs))

theorem execCondMaximumExpiry_closed (h : Closed P)
    (he : execCondMaximumExpiry s = .next t) (hs : P s) : P t :=
  stateExpiry_closed h he hs (fun _ hs => decideNow_closed h.toEvents _ (onTimers_closed h.toEvents _ hs))

theorem execPrePurgeExpiry_closed (h : Closed P) (he : execPrePurgeExpiry s = .next t) (hs : P s) : P t :=
  stateExpiry_closed h he hs (fun _ hs => seqEvent_closed h.toEvents (onTimers_closed h.toEvents _ hs))

theorem execPurgMaximumExpiry_closed (h : Closed P)
    (he : execPurgMaximumExpiry s = .next t) (hs : P s) : P t :=
  stateExpiry_closed h he hs (fun _ hs => decideNow_closed h.toEvents _ (onTimers_closed h.toEvents _ hs))

theorem execProofTimerExpiry_closed (h : Closed P)
    (he : execProofTimerExpiry s = .next t) (hs : P s) : P t := by
  refine react_closed h he hs (fun hs => ?_)
  split
  · exact whenDue_closed
      (fun s hs => seqEvent_closed h.toEvents (onFlue_closed h.toEvents _
        (onAttempt_closed h.toEvents (fun a => { a with proof := true }) (fun _ => rfl) hs))) _ hs
  · exact hs

theorem execSafetyTimeExpiry_closed (h : Closed P)
    (he : execSafetyTimeExpiry s = .next t) (hs : P s) : P t :=
  stateExpiry_closed h he hs (fun _ hs => decideNow_closed h.toEvents _ (onTimers_closed h.toEvents _ hs))

theorem execWarmMaximumExpiry_closed (h : Closed P)
    (he : execWarmMaximumExpiry s = .next t) (hs : P s) : P t :=
  stateExpiry_closed h he hs (fun _ hs => decideNow_closed h.toEvents _ (onTimers_closed h.toEvents _ hs))

theorem execLossTimerExpiry_closed (h : Closed P)
    (he : execLossTimerExpiry s = .next t) (hs : P s) : P t := by
  refine react_closed h he hs (fun hs => ?_)
  split
  · exact whenDue_closed (fun s hs => decideNow_closed h.toEvents _ (onFlue_closed h.toEvents _ hs)) _ hs
  · exact hs

theorem execStableFiringExpiry_closed (h : Closed P)
    (he : execStableFiringExpiry s = .next t) (hs : P s) : P t :=
  stateExpiry_closed h he hs (fun s hs => h.silent s _ rfl hs)

theorem execPostMinimumExpiry_closed (h : Closed P)
    (he : execPostMinimumExpiry s = .next t) (hs : P s) : P t :=
  stateExpiry_closed h he hs (fun _ hs => seqEvent_closed h.toEvents (onTimers_closed h.toEvents _ hs))

theorem execPostMaximumExpiry_closed (h : Closed P)
    (he : execPostMaximumExpiry s = .next t) (hs : P s) : P t :=
  stateExpiry_closed h he hs (fun _ hs => seqEvent_closed h.toEvents (endPost_closed h.toEvents (onTimers_closed h.toEvents _ hs)))

theorem execRecycleWaitExpiry_closed (h : Closed P)
    (he : execRecycleWaitExpiry s = .next t) (hs : P s) : P t := by
  refine stateExpiry_closed h he hs (fun s hs => seqEvent_closed h.toEvents ?_)
  split
  · exact beginAttempt_closed h.toEvents (onTimers_closed h.toEvents _ hs)
  · exact hs

theorem execColdHoldExpiry_closed (h : Closed P) (he : execColdHoldExpiry s = .next t) (hs : P s) : P t := by
  refine stateExpiry_closed h he hs (fun s hs => seqEvent_closed h.toEvents ?_)
  split
  · exact beginAttempt_closed h.toEvents (onTimers_closed h.toEvents _ hs)
  · exact hs

theorem execRePlaceTimerExpiry_closed (h : Closed P)
    (he : execRePlaceTimerExpiry s = .next t) (hs : P s) : P t :=
  react_closed h he hs (fun hs => whenDue_closed (fun s hs => h.rePlace s hs) _ hs)

theorem execPeriodTimerExpiry_closed (h : Closed P) (z : Fin 6)
    (he : execPeriodTimerExpiry z s = .next t) (hs : P s) : P t := by
  refine react_closed h he hs (fun hs => ?_)
  split
  · exact whenDue_closed (fun _ hs => zoneChange_closed h z (fun _ hs => beginPeriod_closed h.toEvents z hs) hs) _ hs
  · exact hs

theorem execOnTimerExpiry_closed (h : Closed P) (z : Fin 6)
    (he : execOnTimerExpiry z s = .next t) (hs : P s) : P t := by
  refine react_closed h he hs (fun hs => ?_)
  split
  · exact whenDue_closed (fun _ hs => zoneChange_closed h z (fun _ hs => endOnPeriod_closed h.toEvents z hs) hs) _ hs
  · exact hs

theorem execRefreshTimerExpiry_closed (h : Closed P) (z : Fin 6)
    (he : execRefreshTimerExpiry z s = .next t) (hs : P s) : P t :=
  react_closed h he hs (fun hs => whenDue_closed (fun _ hs => refreshZone_closed h.toEvents z hs) _ hs)

theorem execMinuteTimerExpiry_closed (h : Closed P)
    (he : execMinuteTimerExpiry s = .next t) (hs : P s) : P t := by
  refine react_closed h he hs (fun hs => whenDue_closed (fun s hs => ?_) _ hs)
  dsimp only
  split
  · exact h.silent s _ rfl hs
  · exact changeLock_closed h.toEvents _ (h.silent s _ rfl hs)

theorem execOwnCommandFrame_closed (h : Closed P) (id : PortId)
    (he : execOwnCommandFrame id s = .next t) (hs : P s) : P t :=
  react_closed h he hs (fun hs => onFrame_closed h _ _ (fun hs => complete_closed h _ _ hs) hs)

theorem execFieldManagementFrame_closed (h : Closed P) (n : Nat)
    (he : execFieldManagementFrame n s = .next t) (hs : P s) : P t :=
  react_closed h he hs (fun hs => onFrame_closed h _ _ (fun hs => refuseNotManaging_closed h _ _ hs) hs)

theorem execFieldFrameOther_closed (h : Closed P)
    (he : execFieldFrameOther s = .next t) (hs : P s) : P t :=
  react_closed h he hs (fun hs => onFrame_closed h _ _ (fun hs => passBy_closed h _ hs) hs)

theorem execReportTimerExpiry_closed (h : Closed P)
    (he : execReportTimerExpiry s = .next t) (hs : P s) : P t :=
  react_closed h he hs (fun hs => whenDue_closed (fun s hs =>
    offer_closed h.toEvents _ rfl (onRelay_silent h (fun r => { r with report := startMs s 2000 }) rfl hs)) _ hs)

theorem execFrameCheckFail_closed (h : Closed P) (id : PortId)
    (he : execFrameCheckFail id s = .next t) (hs : P s) : P t :=
  react_closed h he hs (fun hs => onFrame_closed h _ _ (fun hs => onPort_closed h _ _ (fun _ => rfl) hs) hs)

theorem execFrameAbandoned_closed (h : Closed P) (id : PortId)
    (he : execFrameAbandoned id s = .next t) (hs : P s) : P t :=
  react_closed h he hs (fun hs => onFrame_closed h _ _ (fun hs => hs) hs)

theorem execStuckEnd_closed (h : Closed P) (id : PortId)
    (he : execStuckEnd id s = .next t) (hs : P s) : P t := by
  refine react_closed h he hs (fun hs => ?_)
  repeat' split
  · exact onPort_closed h _ _ (fun _ => rfl) hs
  · exact hearTraffic_closed h _ hs
  · exact hs

theorem execCycleTimerExpiry_closed (h : Closed P)
    (he : execCycleTimerExpiry s = .next t) (hs : P s) : P t := by
  refine react_closed h he hs (fun hs => whenDue_closed (fun s hs => ?_) _ hs)
  exact h.silent s _ rfl hs

theorem execFieldSilenceExpiry_closed (h : Closed P)
    (he : execFieldSilenceExpiry s = .next t) (hs : P s) : P t := by
  refine react_closed h he hs (fun hs => whenDue_closed (fun s hs => latch_closed h.toEvents _ ?_) _ hs)
  exact h.silent s _ rfl hs

theorem execStat_closed (h : Closed P) (he : execStat s = .next t) (hs : P s) : P t :=
  reactRequest_closed h he hs (fun _ hs => respond_closed h _ _ _ hs)

theorem execChan_closed (h : Closed P) (k : Byte) (he : execChan k s = .next t) (hs : P s) : P t := by
  refine reactRequest_closed h he hs (fun _ hs => ?_)
  split
  all_goals exact respond_closed h _ _ _ hs

theorem execAttr_closed (h : Closed P) (k : Byte) (he : execAttr k s = .next t) (hs : P s) : P t := by
  refine reactRequest_closed h he hs (fun _ hs => ?_)
  split
  all_goals exact respond_closed h _ _ _ hs

theorem execEvnt_closed (h : Closed P) (m : BitVec 24) (he : execEvnt m s = .next t) (hs : P s) : P t :=
  reactRequest_closed h he hs (fun _ hs => respond_closed h _ _ _ (onMgmt_closed h.toEvents _ hs))

theorem execAmsk_closed (h : Closed P) (m : BitVec 24) (he : execAmsk m s = .next t) (hs : P s) : P t :=
  reactRequest_closed h he hs (fun _ hs => respond_closed h _ _ _ (onMgmt_closed h.toEvents _ hs))

theorem execOpen_closed (h : Closed P) (d : Byte) (f : Byte) (n : Byte)
    (he : execOpen d f n s = .next t) (hs : P s) : P t :=
  reactRequest_closed h he hs (fun _ hs => openRequest_closed h _ _ _ hs)

theorem execChnk_closed (h : Closed P) (i : Byte) (d : List Byte)
    (he : execChnk i d s = .next t) (hs : P s) : P t :=
  reactRequest_closed h he hs (fun _ hs => chunkRequest_closed h _ _ hs)

theorem execFlsh_closed (h : Closed P) (he : execFlsh s = .next t) (hs : P s) : P t := by
  refine reactRequest_closed h he hs (fun _ hs => ?_)
  split
  · exact respond_closed h _ _ _ hs
  · exact respond_closed h _ _ _ (closeTransfer_closed h hs)

theorem execEras_closed (h : Closed P) (p : Byte) (he : execEras p s = .next t) (hs : P s) : P t := by
  refine reactRequest_closed h he hs (fun _ hs => ?_)
  split
  · exact respond_closed h _ _ _ hs
  · exact eraseRequest_closed h _ hs

theorem execRlck_closed (h : Closed P) (he : execRlck s = .next t) (hs : P s) : P t :=
  reactRequest_closed h he hs (fun _ hs => resetRequest_closed h hs)

theorem execClrh_closed (h : Closed P) (he : execClrh s = .next t) (hs : P s) : P t :=
  reactRequest_closed h he hs (fun _ hs => onMgmt_closed h.toEvents _ (emptyHistory_closed h.toEvents hs))

theorem execRfsl_closed (h : Closed P) (he : execRfsl s = .next t) (hs : P s) : P t :=
  reactRequest_closed h he hs (fun _ hs => respond_closed h _ _ _ hs)

theorem execSrst_closed (h : Closed P) (he : execSrst s = .next t) (hs : P s) : P t :=
  reactRequest_closed h he hs (fun _ hs => respond_closed h _ _ _ (onMgmt_closed h.toEvents _ hs))

theorem execFrst_closed (h : Closed P) (he : execFrst s = .next t) (hs : P s) : P t :=
  reactRequest_closed h he hs (fun _ hs => respond_closed h _ _ _ (onMgmt_closed h.toEvents _ hs))

theorem execIdleTimerExpiry_closed (h : Closed P)
    (he : execIdleTimerExpiry s = .next t) (hs : P s) : P t := by
  refine react_closed h he hs (fun hs => whenDue_closed (fun s hs => ?_) _ hs)
  unfold expireIdle
  split
  all_goals first
    | exact rejectPage_closed h.toEvents _ (closeTransfer_closed h hs)
    | exact closeTransfer_closed h hs

theorem execFetchReadComplete_closed (h : Closed P)
    (he : execFetchReadComplete s = .next t) (hs : P s) : P t := by
  refine react_closed h he hs (fun hs => completing_closed (fun o s hs => ?_) hs)
  split
  all_goals first | exact answerFetched_closed h _ (freePort_closed h hs) | exact hs

theorem execSweepTimerExpiry_closed (h : Closed P)
    (he : execSweepTimerExpiry s = .next t) (hs : P s) : P t :=
  react_closed h he hs (fun hs => whenDue_closed (fun _ hs => onStore_silent h _ rfl rfl rfl rfl hs) _ hs)

theorem execCheckStepComplete_closed (h : Closed P)
    (he : execCheckStepComplete s = .next t) (hs : P s) : P t := by
  refine react_closed h he hs (fun hs => completing_closed (fun o s hs => ?_) hs)
  split
  all_goals first | exact checkPage_closed h _ (freePort_closed h hs) | exact hs

theorem execOpenerSeen_closed (h : Closed P) (id : PortId)
    (he : execOpenerSeen id s = .next t) (hs : P s) : P t := by
  refine react_closed h he hs (fun hs => ?_)
  split
  · exact onPort_closed h _ _ (fun _ => rfl) hs
  · exact hs

theorem execUpstreamFrameNoEffect_closed (h : Closed P)
    (he : execUpstreamFrameNoEffect s = .next t) (hs : P s) : P t :=
  react_closed h he hs (fun hs => onFrame_closed h _ _ (fun hs => passBy_closed h _ hs) hs)

theorem execMrqNotManaging_closed (h : Closed P) (n : Nat)
    (he : execMrqNotManaging n s = .next t) (hs : P s) : P t := by
  refine react_closed h he hs (fun hs => ?_)
  split
  · exact hs
  · exact onFrame_closed h _ _ (fun hs => refuseNotManaging_closed h _ _ hs) hs

theorem execMalformedManagementRequest_closed (h : Closed P)
    (he : execMalformedManagementRequest s = .next t) (hs : P s) : P t :=
  reactRequest_closed h he hs (fun _ hs => hs)

theorem execPowerUp_closed (h : StoreClosed P) (he : execPowerUp s = .next t) (hs : P s) : P t := by
  have : powerUp s = t := by simpa [execPowerUp] using he
  subst this
  refine h.restart _ _ _ _ rfl rfl ?_
  split
  · exact h.lose _ hs
  · exact hs

theorem execPowerLoss_closed (h : StoreClosed P) (he : execPowerLoss s = .next t) (hs : P s) : P t := by
  rw [show execPowerLoss s = act losePower s from rfl, act_eq_next] at he
  subst he
  split
  · exact h.lose _ hs
  · exact hs

theorem execCommissioningLinkChange_closed (h : StoreClosed P) (b : Bool)
    (he : execCommissioningLinkChange b s = .next t) (hs : P s) : P t := by
  have : { s with link := b } = t := by simpa [execCommissioningLinkChange] using he
  subst this
  exact h.link s b hs

theorem execFullRestartEffect_closed (h : StoreClosed P)
    (he : execFullRestartEffect s = .next t) (hs : P s) : P t := by
  unfold execFullRestartEffect at he
  rw [act_eq_next] at he
  subst he
  repeat' split
  · exact renewOrder_closed h.toClosed.toEvents (h.restart _ _ _ _ rfl rfl hs)
  · exact hs
  · exact hs

theorem execUpstreamCommand_closed (h : StoreClosed P) (d : Nat) (n : Nat) (p : List Byte)
    (he : execUpstreamCommand d n p s = .next t) (hs : P s) : P t := by
  refine react_closed h.toClosed he hs (fun hs => onFrame_closed h.toClosed _ _ (fun hs => ?_) hs)
  split
  · unfold relayDirected
    repeat' split
    all_goals first
      | exact complete_closed h.toClosed _ _ hs
      | exact setRefusal_closed h.toClosed _ _ _ _ (complete_closed h.toClosed _ _ hs)
      | exact beginRelay_closed h.toLineClosed _ _ hs
  all_goals first | exact complete_closed h.toClosed _ _ hs | exact followAck_closed h.toClosed _ hs

theorem execBroadcastCommand_closed (h : StoreClosed P) (n : Nat) (p : List Byte)
    (he : execBroadcastCommand n p s = .next t) (hs : P s) : P t := by
  refine react_closed h.toClosed he hs (fun hs => onFrame_closed h.toClosed _ _ (fun hs => ?_) hs)
  have h1 := complete_closed h.toClosed .upstream none hs
  unfold relayBroadcast
  repeat' split
  all_goals first
    | exact h1
    | exact setRefusal_closed h.toClosed _ _ _ _ h1
    | exact placeRelay_closed h.toLineClosed _ _ h1

theorem execRelayDeadlineExpiry_closed (h : StoreClosed P)
    (he : execRelayDeadlineExpiry s = .next t) (hs : P s) : P t := by
  refine react_closed h.toClosed he hs (fun hs => ?_)
  split
  · exact whenDue_closed (fun _ hs => relayLate_closed h.toLineClosed _ hs) _ hs
  · exact hs

theorem execArbiterGrant_closed (h : StoreClosed P) (he : execArbiterGrant s = .next t) (hs : P s) : P t := by
  refine react_closed h.toClosed he hs (fun hs => ?_)
  repeat' split
  · exact sendAgain_closed h.toLineClosed _ hs
  · exact grantFirst_closed h.toLineClosed hs
  · exact hs

theorem execUpstreamSend_closed (h : StoreClosed P) (he : execUpstreamSend s = .next t) (hs : P s) : P t := by
  refine react_closed h.toClosed he hs (fun hs => ?_)
  repeat' split
  · exact sendAgain_closed h.toLineClosed _ hs
  · exact sendHead_closed h.toLineClosed hs
  · exact hs

theorem execArbitrationLost_closed (h : StoreClosed P) (id : PortId)
    (he : execArbitrationLost id s = .next t) (hs : P s) : P t := by
  refine react_closed h.toClosed he hs (fun hs => ?_)
  split
  · exact loseArbitration_closed h.toLineClosed _ _ hs
  · exact hs

theorem execCollision_closed (h : StoreClosed P) (id : PortId)
    (he : execCollision id s = .next t) (hs : P s) : P t := by
  refine react_closed h.toClosed he hs (fun hs => ?_)
  split
  · exact endTry_closed h.toLineClosed _ _ _ _ hs
  · exact hs

theorem execAckByte_closed (h : StoreClosed P) (v : Byte) (b : Bool)
    (he : execAckByte v b s = .next t) (hs : P s) : P t := by
  refine react_closed h.toClosed he hs (fun hs => ?_)
  split
  · exact endTry_closed h.toLineClosed _ _ _ _ hs
  · exact hearTraffic_closed h.toClosed _ hs

theorem execAckPositionEnd_closed (h : StoreClosed P)
    (he : execAckPositionEnd s = .next t) (hs : P s) : P t := by
  refine react_closed h.toClosed he hs (fun hs => ?_)
  split
  · exact endTry_closed h.toLineClosed _ _ _ _ hs
  · exact hearTraffic_closed h.toClosed _ hs

theorem execHoldBegun_closed (h : StoreClosed P) (he : execHoldBegun s = .next t) (hs : P s) : P t := by
  refine react_closed h.toClosed he hs (fun hs => ?_)
  repeat' split
  · exact hs
  · exact onPort_line h.toLineClosed _ _ hs
  · exact hearHold_closed h.toClosed _ hs

theorem execHoldLimitExpiry_closed (h : StoreClosed P)
    (he : execHoldLimitExpiry s = .next t) (hs : P s) : P t := by
  refine react_closed h.toClosed he hs (fun hs => ?_)
  split
  · exact whenDue_closed (fun _ hs => endTry_closed h.toLineClosed _ _ _ _ hs) _ hs
  · exact hs

theorem execFrameSent_closed (h : StoreClosed P) (id : PortId)
    (he : execFrameSent id s = .next t) (hs : P s) : P t := by
  refine react_closed h.toClosed he hs (fun hs => ?_)
  repeat' split
  · exact hs
  · exact trySent_closed h.toLineClosed _ _ hs
  · exact hs

theorem execLineStuck_closed (h : StoreClosed P) (id : PortId)
    (he : execLineStuck id s = .next t) (hs : P s) : P t := by
  refine react_closed h.toClosed he hs (fun hs => ?_)
  split
  · exact hs
  · exact enterStuck_closed h.toLineClosed _ hs

theorem execStorePortGrant_closed (h : StoreClosed P)
    (he : execStorePortGrant s = .next t) (hs : P s) : P t := by
  refine react_closed h.toClosed he hs (fun hs => ?_)
  split
  · exact grantStore_closed h hs
  · exact hs

theorem execRecordWriteComplete_closed (h : StoreClosed P)
    (he : execRecordWriteComplete s = .next t) (hs : P s) : P t := by
  refine react_closed h.toClosed he hs (fun hs => completing_closed (fun o s hs => ?_) hs)
  dsimp only
  split
  · split
    · exact recordWritten_closed h.toClosed _ (h.stored _ _ _ (freePort_closed h.toClosed hs))
    · exact h.stored _ _ _ (freePort_closed h.toClosed hs)
  all_goals exact hs

theorem execManagementWriteComplete_closed (h : StoreClosed P)
    (he : execManagementWriteComplete s = .next t) (hs : P s) : P t := by
  refine react_closed h.toClosed he hs (fun hs => completing_closed (fun o s hs => ?_) hs)
  split
  · exact afterWrite_closed h _ _ (h.stored _ _ _ (freePort_closed h.toClosed hs))
  all_goals exact hs

theorem execEraseComplete_closed (h : StoreClosed P)
    (he : execEraseComplete s = .next t) (hs : P s) : P t := by
  refine react_closed h.toClosed he hs (fun hs => completing_closed (fun o s hs => ?_) hs)
  split
  · exact inEitherOrder_closed h.toClosed.toEvents (fun _ hs => respond_closed h.toClosed _ _ _ hs) (fun _ hs => installWritten_closed h _ (by simp) hs)
      (h.stored _ _ _ (freePort_closed h.toClosed hs))
  all_goals exact hs

theorem execRepairWriteComplete_closed (h : StoreClosed P)
    (he : execRepairWriteComplete s = .next t) (hs : P s) : P t := by
  refine react_closed h.toClosed he hs (fun hs => completing_closed (fun o s hs => ?_) hs)
  split
  · exact sweepOn_closed h.toClosed (h.stored _ _ _ (freePort_closed h.toClosed hs))
  all_goals exact hs

/-- A plain command keeps a closed property. -/
theorem exec_plain_closed (h : Closed P) {c : Instr} (hc : plain c = true) (he : exec c s = .next t) (hs : P s) : P t := by
  cases c with
  | localResetPush => exact execLocalResetPush_closed h he hs
  | sampleFrame id d n k p => exact execSampleFrame_closed h _ _ _ _ _ he hs
  | freshnessExpiry k => exact execFreshnessExpiry_closed h _ he hs
  | demandFrame n p => exact execDemandFrame_closed h _ _ he hs
  | demandTimerExpiry => exact execDemandTimerExpiry_closed h he hs
  | chekMaximumExpiry => exact execChekMaximumExpiry_closed h he hs
  | preheatTimerExpiry => exact execPreheatTimerExpiry_closed h he hs
  | condMaximumExpiry => exact execCondMaximumExpiry_closed h he hs
  | prePurgeExpiry => exact execPrePurgeExpiry_closed h he hs
  | purgMaximumExpiry => exact execPurgMaximumExpiry_closed h he hs
  | proofTimerExpiry => exact execProofTimerExpiry_closed h he hs
  | safetyTimeExpiry => exact execSafetyTimeExpiry_closed h he hs
  | warmMaximumExpiry => exact execWarmMaximumExpiry_closed h he hs
  | lossTimerExpiry => exact execLossTimerExpiry_closed h he hs
  | stableFiringExpiry => exact execStableFiringExpiry_closed h he hs
  | postMinimumExpiry => exact execPostMinimumExpiry_closed h he hs
  | postMaximumExpiry => exact execPostMaximumExpiry_closed h he hs
  | recycleWaitExpiry => exact execRecycleWaitExpiry_closed h he hs
  | coldHoldExpiry => exact execColdHoldExpiry_closed h he hs
  | rePlaceTimerExpiry => exact execRePlaceTimerExpiry_closed h he hs
  | periodTimerExpiry z => exact execPeriodTimerExpiry_closed h _ he hs
  | onTimerExpiry z => exact execOnTimerExpiry_closed h _ he hs
  | refreshTimerExpiry z => exact execRefreshTimerExpiry_closed h _ he hs
  | minuteTimerExpiry => exact execMinuteTimerExpiry_closed h he hs
  | ownCommandFrame id => exact execOwnCommandFrame_closed h _ he hs
  | fieldManagementFrame n => exact execFieldManagementFrame_closed h _ he hs
  | fieldFrameOther => exact execFieldFrameOther_closed h he hs
  | reportTimerExpiry => exact execReportTimerExpiry_closed h he hs
  | frameCheckFail id => exact execFrameCheckFail_closed h _ he hs
  | frameAbandoned id => exact execFrameAbandoned_closed h _ he hs
  | stuckEnd id => exact execStuckEnd_closed h _ he hs
  | cycleTimerExpiry => exact execCycleTimerExpiry_closed h he hs
  | fieldSilenceExpiry => exact execFieldSilenceExpiry_closed h he hs
  | stat => exact execStat_closed h he hs
  | chan k => exact execChan_closed h _ he hs
  | attr k => exact execAttr_closed h _ he hs
  | evnt m => exact execEvnt_closed h _ he hs
  | amsk m => exact execAmsk_closed h _ he hs
  | openTransfer d f n => exact execOpen_closed h _ _ _ he hs
  | chnk i d => exact execChnk_closed h _ _ he hs
  | flsh => exact execFlsh_closed h he hs
  | eras p => exact execEras_closed h _ he hs
  | rlck => exact execRlck_closed h he hs
  | clrh => exact execClrh_closed h he hs
  | rfsl => exact execRfsl_closed h he hs
  | srst => exact execSrst_closed h he hs
  | frst => exact execFrst_closed h he hs
  | idleTimerExpiry => exact execIdleTimerExpiry_closed h he hs
  | fetchReadComplete => exact execFetchReadComplete_closed h he hs
  | sweepTimerExpiry => exact execSweepTimerExpiry_closed h he hs
  | checkStepComplete => exact execCheckStepComplete_closed h he hs
  | openerSeen id => exact execOpenerSeen_closed h _ he hs
  | upstreamFrameNoEffect => exact execUpstreamFrameNoEffect_closed h he hs
  | mrqNotManaging n => exact execMrqNotManaging_closed h _ he hs
  | malformedManagementRequest => exact execMalformedManagementRequest_closed h he hs
  | _ => cases hc

/-- Every command keeps a property closed under the writes of the store and the restarts too. -/
theorem exec_closed (h : StoreClosed P) {c : Instr} (he : exec c s = .next t) (hs : P s) : P t := by
  cases hp : plain c with
  | true => exact exec_plain_closed h.toClosed hp he hs
  | false =>
    cases c with
    | powerUp => exact execPowerUp_closed h he hs
    | powerLoss => exact execPowerLoss_closed h he hs
    | commissioningLinkChange b => exact execCommissioningLinkChange_closed h _ he hs
    | fullRestartEffect => exact execFullRestartEffect_closed h he hs
    | upstreamCommand d n p => exact execUpstreamCommand_closed h _ _ _ he hs
    | broadcastCommand n p => exact execBroadcastCommand_closed h _ _ he hs
    | relayDeadlineExpiry => exact execRelayDeadlineExpiry_closed h he hs
    | arbiterGrant => exact execArbiterGrant_closed h he hs
    | upstreamSend => exact execUpstreamSend_closed h he hs
    | arbitrationLost id => exact execArbitrationLost_closed h _ he hs
    | collision id => exact execCollision_closed h _ he hs
    | ackByte v b => exact execAckByte_closed h _ _ he hs
    | ackPositionEnd => exact execAckPositionEnd_closed h he hs
    | holdBegun => exact execHoldBegun_closed h he hs
    | holdLimitExpiry => exact execHoldLimitExpiry_closed h he hs
    | frameSent id => exact execFrameSent_closed h _ he hs
    | lineStuck id => exact execLineStuck_closed h _ he hs
    | storePortGrant => exact execStorePortGrant_closed h he hs
    | recordWriteComplete => exact execRecordWriteComplete_closed h he hs
    | managementWriteComplete => exact execManagementWriteComplete_closed h he hs
    | eraseComplete => exact execEraseComplete_closed h he hs
    | repairWriteComplete => exact execRepairWriteComplete_closed h he hs
    | _ => cases hp

end Sys2Proof.Machine
end

