-- ==== Sys2Proof/Laws/Tasks.lean ====
section
/-! SUPPORT. The reactions one command sets in motion all run: their number is bounded by a weight that no
command brings past the count of `reactTo` (log 37). -/

namespace Sys2Proof.Machine

/-- How many reactions a reaction stands for, itself and those it sets in motion. -/
def Task.weight : Task → Nat
  | .sample _ _ | .rebind _ => 5
  | .zone _ _ => 2
  | .forward _ _ _ _ | .sequencer | .heater | .flue | .draught | .diverter | .demand | .reclamp | .rate | .schedule
  | .boilerCall | .zoneCall | .storeFault => 1

/-- The weight of a list of reactions. -/
def weigh (ts : List Task) : Nat := (ts.map Task.weight).sum

@[simp] theorem weigh_nil : weigh [] = 0 := rfl

@[simp] theorem weigh_cons (t : Task) (ts : List Task) : weigh (t :: ts) = t.weight + weigh ts := rfl

@[simp] theorem weigh_append (ts us : List Task) : weigh (ts ++ us) = weigh ts + weigh us := by simp [weigh]

theorem weigh_eraseIdx (ts : List Task) (i : Nat) (t : Task) (h : ts[i]? = some t) :
    weigh (ts.eraseIdx i) + t.weight = weigh ts := by
  induction ts generalizing i with
  | nil => simp at h
  | cons u us ih =>
    cases i with
    | zero => simp at h; subst h; simp; omega
    | succ i => simp at h; have := ih i h; simp; omega

theorem weigh_readers (k : Fin 14) (x : Option Bool) : weigh (readers k x) ≤ 4 := by
  unfold readers
  split <;> simp [Task.weight]

/-- A reaction sets in motion less than its own weight. -/
theorem weigh_runTask (t : Task) (s : State) : weigh (runTask t s).2 + 1 ≤ t.weight := by
  have hr := weigh_readers
  cases t with
  | sample k p =>
    simp only [runTask, sampleChannel, Task.weight]
    split
    · simp
    · next b _ =>
      dsimp only; split
      · have := hr k (takeSample b s.now p (chan s k)).accepted; omega
      · simp
  | rebind k => simp only [runTask, rebindChannel, Task.weight]; have := hr k none; omega
  | zone z x => simp only [runTask, zoneTask, Task.weight]; split <;> simp [Task.weight]
  | _ => simp [runTask, Task.weight]

theorem pick_lt (n : Nat) (s : State) (h : 0 < n) : (pick n s).1 < n := by
  unfold pick
  split
  · exact h
  · exact Nat.mod_lt _ h

/-- What every reaction keeps, of the state and of the reactions still to be taken, holds when none is left. -/
theorem runTasks_induction {P : List Task → State → Prop}
    (hpick : ∀ ts n s, P ts s → P ts (pick n s).2)
    (hrun : ∀ ts i t s, ts[i]? = some t → P ts s → P (ts.eraseIdx i ++ (runTask t s).2) (runTask t s).1) (n : Nat) :
    ∀ (ts : List Task) (s : State), weigh ts ≤ n → P ts s → P [] (runTasks n ts s) := by
  have nil : ∀ ts, weigh ts = 0 → ts = [] := by
    intro ts h
    cases ts with
    | nil => rfl
    | cons t _ => have : 1 ≤ t.weight := by cases t <;> simp [Task.weight]
                  simp at h; omega
  induction n with
  | zero => intro ts s hw hs; rw [nil ts (by omega)] at hs; exact hs
  | succ n ih =>
    intro ts s hw hs
    unfold runTasks
    split
    · next e =>
      cases ts with
      | nil => exact hs
      | cons t us =>
        have := pick_lt (t :: us).length s (by simp)
        rw [List.getElem?_eq_none_iff] at e
        omega
    · next t e =>
      refine ih _ _ ?_ (hrun ts _ t _ e (hpick ts _ s hs))
      have h1 := weigh_eraseIdx ts _ t e
      have h2 := weigh_runTask t (pick ts.length s).2
      rw [weigh_append]
      omega

/-- The same for the reactions of one command. -/
theorem reactTo_induction {P : List Task → State → Prop}
    (hpick : ∀ ts n s, P ts s → P ts (pick n s).2)
    (hrun : ∀ ts i t s, ts[i]? = some t → P ts s → P (ts.eraseIdx i ++ (runTask t s).2) (runTask t s).1)
    (ts : List Task) (s : State) (hw : weigh ts ≤ 200) (hs : P ts s) : P [] (reactTo ts s) :=
  runTasks_induction hpick hrun 200 ts s hw hs

/-- What one reaction brings about and every reaction keeps, holds after the reactions of a command that has it among
them. -/
theorem reactTo_establishes {P : State → Prop} (hpick : ∀ n s, P s → P (pick n s).2)
    (hkeep : ∀ t s, P s → P (runTask t s).1) (t : Task) (hest : ∀ s, P (runTask t s).1) (ts : List Task) (s : State)
    (hw : weigh ts ≤ 200) (ht : t ∈ ts) : P (reactTo ts s) := by
  have h := reactTo_induction (P := fun ts s => t ∈ ts ∨ P s) (fun _ n s hs => hs.imp id (hpick n s))
    (fun us i u s hi hs => by
      rcases hs with hm | hs
      · by_cases e : u = t
        · subst e; exact Or.inr (hest s)
        · refine Or.inl (List.mem_append_left _ ?_)
          rw [List.mem_eraseIdx_iff_getElem?]
          obtain ⟨j, hj⟩ := List.mem_iff_getElem?.mp hm
          refine ⟨j, ?_, hj⟩
          intro ji
          rw [ji, hi] at hj
          exact e (Option.some.inj hj)
      · exact Or.inr (hkeep u s hs)) ts s hw (Or.inl ht)
  exact h.resolve_left (by simp)

theorem weigh_map_le {α : Type} (f : α → Task) (n : Nat) (h : ∀ x, (f x).weight ≤ n) (l : List α) :
    weigh (l.map f) ≤ n * l.length := by
  induction l with
  | nil => simp
  | cons x l ih => have := h x; simp only [List.map_cons, weigh_cons, List.length_cons, Nat.mul_succ]; omega

/-- The reactions to a sample frame (R5). -/
theorem weigh_fed (p : Fin 14 → Bool) (payload : List Byte) (us : List Task) (h : weigh us ≤ 1) :
    weigh (((List.finRange 14).filter p).map (fun k => Task.sample k payload) ++ us) ≤ 200 := by
  have h1 := weigh_map_le (fun k => Task.sample k payload) 5 (fun _ => Nat.le_refl _) ((List.finRange 14).filter p)
  have h2 : ((List.finRange 14).filter p).length ≤ 14 := by
    refine Nat.le_trans (List.length_filter_le _ _) ?_
    simp
  rw [weigh_append]
  omega

end Sys2Proof.Machine
end

