-- ==== Sys2Proof/Laws/Blocks.lean ====
section
/-! SUPPORT. From the primitive changes to whole steps, and what the events of the blocks leave alone. -/

namespace Sys2Proof.Machine

variable {P : State → Prop} {s t : State}

/-! ### A step -/

theorem lineView_of_view (h : view t = view s) : lineView t = lineView s := by
  simp only [view, guardPart, lineView, Prod.mk.injEq] at *
  simp_all

/-- A property that every command keeps, and the passage of time and the queue too, is kept by a step. -/
theorem step_keeps (hq : ∀ s q, P s → P { s with pending := q }) (ht : ∀ s, P s → P (tick s))
    (hc : ∀ s t c, exec c s = .next t → P s → P t) (h : step s = .next t) (hs : P s) : P t := by
  unfold step at h
  split at h
  · next c u e =>
    unfold front at e
    split at e
    · cases e
    · cases e; exact hc _ _ _ h (hq _ _ hs)
  · cases h; exact ht s hs

theorem step_closed (hP : StoreClosed P) (hq : ∀ s q, P s → P { s with pending := q }) (ht : ∀ s, P s → P (tick s))
    (h : step s = .next t) (hs : P s) : P t := step_keeps hq ht (fun _ _ _ he => exec_closed hP he) h hs

@[simp] theorem seq_tick : (tick s).seq = s.seq := by unfold tick; split <;> rfl

@[simp] theorem arb_tick : (tick s).arb = s.arb := by unfold tick; split <;> rfl

@[simp] theorem relay_tick : (tick s).relay = s.relay := by unfold tick; split <;> rfl

@[simp] theorem store_tick : (tick s).store = s.store := by unfold tick; split <;> rfl

@[simp] theorem chans_tick : (tick s).chans = s.chans := by unfold tick; split <;> rfl

@[simp] theorem mgmt_tick : (tick s).mgmt = s.mgmt := by unfold tick; split <;> rfl

theorem trying_passGap (n : Nat) (p : Port) : (passGap n p).trying = p.trying := by
  unfold passGap; (repeat' split) <;> rfl

@[simp] theorem upTrying_tick : (tick s).up.trying = s.up.trying := by
  unfold tick; split
  · exact trying_passGap _ _
  · rfl

@[simp] theorem fieldTrying_tick : (tick s).field.trying = s.field.trying := by
  unfold tick; split
  · exact trying_passGap _ _
  · rfl

/-! ### The entry to a state and the Attempt Record -/

set_option linter.unusedSimpArgs false in
/-- The Attempt Record's phase is the state entered, and the record is gone outside CHEK to POST (R40). -/
theorem phase_enterState (st : SupState) (s : State) : (enterState st s).seq.attempt.map (·.phase) =
    if st.inAttempt then s.seq.attempt.map (fun _ => st) else none := by
  unfold enterState
  simp only [attempt_refreshSet]
  cases st <;> simp [entryActions, moveTo, SupState.inAttempt, phaseInto, onAttempt, Function.comp_def] <;>
    (try split) <;> (try simp [Option.map_map, Function.comp_def])

/-! ### The channels and the settings -/

/-- Working copies of the settings pages, the channels, and the fixed part. -/
def chanPart (s : State) := (outside s, s.chans)

theorem settings_setCopy {p : Nat} (h : 14 ≤ p) (c : Copy) (s : State) : settings (setCopy p c s) = settings s := by
  refine List.map_congr_left (fun q hq => ?_)
  have h1 : q < 14 := List.mem_range.mp hq
  exact copyOf_setCopy_ne s c (by omega)

theorem chanPart_events (x) : Events (fun t => chanPart t = x) where
  silent s t h hs := by
    simp only [view, Prod.mk.injEq] at h
    rw [← hs]; simp [chanPart, h.1, h.2.1]
  offer s f _ hs := hs
  enter s st _ hs := by
    rw [← hs]
    simp [chanPart, outside, fixedPart, settings, copyOf]
  start s a w _ hs := by
    rw [← hs]
    simp [chanPart, outside, fixedPart, settings, copyOf]
  refresh s hs := by
    rw [← hs]
    simp [chanPart, outside, fixedPart, settings, copyOf]
  rePlace s hs := hs
  ask s p _ _ hs := hs
  queue s n f hs := hs
  record s p c h1 _ hs := by
    rw [← hs]
    simp only [chanPart, outside, settings_setCopy h1]
    rfl

/-- A property that reads the settings, the channels and the fixed part alone is kept by the events of the blocks. -/
theorem events_of_chanPart (hP : ∀ s t, chanPart t = chanPart s → P s → P t) : Events P where
  silent s t h hs := hP s t ((chanPart_events _).silent s t h rfl) hs
  offer s f hf hs := hP s _ ((chanPart_events _).offer s f hf rfl) hs
  enter s st hi hs := hP s _ ((chanPart_events _).enter s st hi rfl) hs
  start s a w ha hs := hP s _ ((chanPart_events _).start s a w ha rfl) hs
  refresh s hs := hP s _ ((chanPart_events _).refresh s rfl) hs
  rePlace s hs := hP s _ ((chanPart_events _).rePlace s rfl) hs
  ask s p h1 h2 hs := hP s _ ((chanPart_events _).ask s p h1 h2 rfl) hs
  queue s n f hs := hP s _ ((chanPart_events _).queue s n f rfl) hs
  record s p c h1 hc hs := hP s _ ((chanPart_events _).record s p c h1 hc rfl) hs

end Sys2Proof.Machine
end

