-- ==== Sys2Proof/Laws/Rebind.lean ====
section
/-! SUPPORT. What the replacement of a working copy leaves in the channel records: the reactions of one command rebind
exactly the channels that have a rebinding among them (R16). -/

namespace Sys2Proof.Machine

variable {P : State → Prop} {s : State}

/-- The reaction touches no channel record: it is neither a sample nor a rebinding. -/
def Task.sparesChannels : Task → Bool
  | .sample _ _ | .rebind _ => false
  | _ => true

/-- The reaction is no sample. -/
def Task.offersNone : Task → Bool
  | .sample _ _ => false
  | _ => true

/-- What the events of the blocks keep, a reaction that touches no channel record keeps. -/
theorem runTask_spares (h : Events P) {t : Task} (ht : t.sparesChannels = true) (hs : P s) : P (runTask t s).1 := by
  cases t with
  | sample k b => cases ht
  | rebind k => cases ht
  | forward d n k p => exact offer_closed h _ rfl hs
  | sequencer => exact seqEvent_closed h hs
  | heater => exact oilEvent_closed h hs
  | flue => exact flueEvent_closed h hs
  | draught => exact draughtEvent_closed h hs
  | diverter => exact diverterEvent_closed h hs
  | demand => exact demandEvent_closed h hs
  | reclamp => exact reclampEvent_closed h hs
  | rate => exact rateEvent_closed h hs
  | schedule => exact scheduleEvent_closed h hs
  | boilerCall => exact boilerCallEvent_closed h hs
  | zoneCall => exact zoneCallEvent_closed h hs
  | zone z b => exact zoneEvent_closed h z b hs
  | storeFault => exact decideNow_closed h _ hs

/-- The readers of a channel touch no channel record. -/
theorem readers_spare (k : Fin 14) (x : Option Bool) : ∀ t ∈ readers k x, t.sparesChannels = true := by
  unfold readers
  split <;> simp [Task.sparesChannels]

/-- What a reaction other than a sample sets in motion touches no channel record. -/
theorem runTask_sets_sparing {t : Task} (ht : t.offersNone = true) : ∀ u ∈ (runTask t s).2, u.sparesChannels = true := by
  cases t with
  | sample k b => cases ht
  | rebind k => exact readers_spare k none
  | zone z b => simp only [runTask, zoneTask]; split <;> simp [Task.sparesChannels]
  | _ => simp [runTask]

theorem offersNone_of_spares {t : Task} (h : t.sparesChannels = true) : t.offersNone = true := by
  cases t <;> first | rfl | cases h

/-- A binding is read from the working copies of the settings pages. -/
theorem bindingBytes_congr {t : State} (h : settings t = settings s) (k : Fin 14) :
    bindingBytes (pageOf t) k.val = bindingBytes (pageOf s) k.val := by
  have hp : ∀ p, p < 14 → pageOf t p = pageOf s p := by
    intro p hp
    have := congrArg (fun l => l[p]?) h
    simp only [settings, List.getElem?_map, List.getElem?_range hp, Option.map_some, Option.some.injEq] at this
    simp only [pageOf, this]
  have h1 : corePage k.val < 14 ∧ (markerPlace k.val).1 < 14 := by
    revert k
    decide
  simp only [bindingBytes, hp _ h1.1, hp _ h1.2]

theorem bindingOf_congr {t : State} (h : settings t = settings s) (k : Fin 14) : bindingOf t k = bindingOf s k := by
  simp only [bindingOf, bindingBytes_congr h]

/-- A channel rebound a second time is as after the first. -/
theorem reboundChannel_twice (now : Nat) (b : Option Binding) (c : Channel) :
    reboundChannel now b (reboundChannel now b c) = reboundChannel now b c := by
  cases b <;> rfl

/-- The channel records after the reactions of a command without samples: those with a rebinding among the reactions are
rebound, and the others are as they were (R16). -/
theorem chan_reactTo (ts : List Task) (hw : weigh ts ≤ 200) (hn : ∀ t ∈ ts, t.offersNone = true) :
    outside (reactTo ts s) = outside s
      ∧ ∀ k, chan (reactTo ts s) k =
          if Task.rebind k ∈ ts then reboundChannel s.now (bindingOf s k) (chan s k) else chan s k := by
  have h := reactTo_induction
    (P := fun us u => (∀ t ∈ us, t.offersNone = true) ∧ outside u = outside s
      ∧ ∀ k, (Task.rebind k ∈ us → Task.rebind k ∈ ts)
        ∧ ((chan u k = chan s k ∧ (Task.rebind k ∈ ts → Task.rebind k ∈ us))
          ∨ (Task.rebind k ∈ ts ∧ chan u k = reboundChannel s.now (bindingOf s k) (chan s k))))
    (fun us n u hu => ?_) (fun us i t u hi hu => ?_) ts s hw
    ⟨hn, rfl, fun k => ⟨id, .inl ⟨rfl, id⟩⟩⟩
  · refine ⟨h.2.1, fun k => ?_⟩
    obtain ⟨-, hk⟩ := h.2.2 k
    rcases hk with ⟨h1, h2⟩ | ⟨h1, h2⟩
    · rw [if_neg (fun hm => by simpa using h2 hm), h1]
    · rw [if_pos h1, h2]
  · have hp : chanPart (pick n u).2 = chanPart u := pick_closed (chanPart_events _) n rfl
    simp only [chanPart, Prod.mk.injEq] at hp
    refine ⟨hu.1, hp.1.trans hu.2.1, fun k => ?_⟩
    rw [show chan (pick n u).2 k = chan u k by simp only [chan, hp.2]]
    exact hu.2.2 k
  · obtain ⟨hno, hout, hch⟩ := hu
    have hmem : t ∈ us := List.mem_of_getElem? hi
    have hnew := runTask_sets_sparing (s := u) (hno t hmem)
    have hkeep : ∀ x ∈ us, x ≠ t → x ∈ us.eraseIdx i := by
      intro x hx hne
      rw [List.mem_eraseIdx_iff_getElem?]
      obtain ⟨j, hj⟩ := List.mem_iff_getElem?.mp hx
      refine ⟨j, fun e => ?_, hj⟩
      rw [e, hi] at hj
      exact hne (Option.some.inj hj).symm
    have hback : ∀ k, Task.rebind k ∈ us.eraseIdx i ++ (runTask t u).2 → Task.rebind k ∈ us := by
      intro k hk
      rcases List.mem_append.mp hk with hk | hk
      · exact List.mem_of_mem_eraseIdx hk
      · cases hnew _ hk
    refine ⟨fun x hx => ?_, ?_, fun k => ⟨fun hk => (hch k).1 (hback k hk), ?_⟩⟩
    · rcases List.mem_append.mp hx with hx | hx
      · exact hno x (List.mem_of_mem_eraseIdx hx)
      · exact offersNone_of_spares (hnew x hx)
    · cases ht : t.sparesChannels with
      | true =>
        have := runTask_spares (chanPart_events (chanPart u)) ht rfl
        simp only [chanPart, Prod.mk.injEq] at this
        exact this.1.trans hout
      | false =>
        cases t with
        | rebind j => exact hout
        | sample j b => cases hno _ hmem
        | _ => cases ht
    · cases ht : t.sparesChannels with
      | true =>
        have hc := runTask_spares (chanPart_events (chanPart u)) ht rfl
        simp only [chanPart, Prod.mk.injEq] at hc
        rw [show chan (runTask t u).1 k = chan u k by simp only [chan, hc.2]]
        refine (hch k).2.imp (fun h => ⟨h.1, fun hm => List.mem_append_left _ (hkeep _ (h.2 hm) ?_)⟩) id
        rintro rfl
        cases ht
      | false =>
        cases t with
        | sample j b => cases hno _ hmem
        | rebind j =>
          have hb : bindingOf u k = bindingOf s k := bindingOf_congr (congrArg Prod.snd hout) k
          have hnow : u.now = s.now := congrArg (fun x => x.1.1) hout
          by_cases e : k = j
          · subst e
            refine .inr ⟨(hch k).1 hmem, ?_⟩
            simp only [runTask, rebindChannel, chan_setChan_self, hb, hnow]
            rcases (hch k).2 with h | h
            · rw [h.1]
            · rw [h.2, reboundChannel_twice]
          · simp only [runTask, rebindChannel, chan_setChan_ne _ _ e]
            refine (hch k).2.imp (fun h => ⟨h.1, fun hm => List.mem_append_left _ (hkeep _ (h.2 hm) ?_)⟩) id
            simpa using e
        | _ => cases ht

/-- The rest of a rewrite touches no channel record and no working copy. -/
theorem chanPart_foldl_restart (zones : List (Fin 6)) (u : State) :
    chanPart (zones.foldl (fun s z => restartZone z s) u) = chanPart u :=
  foldl_closed (P := fun t => chanPart t = chanPart u)
    (fun _ z _ hs => restartZone_closed (chanPart_events _) z hs) rfl

/-- The reactions to replaced copies offer no sample, and their number is bounded. -/
theorem replaceCopies_tasks (l : List (Nat × Copy)) (r : Bool) (hl : l.length ≤ 14) :
    (∀ t ∈ (replaceCopies l r s).2, t.offersNone = true) ∧ weigh (replaceCopies l r s).2 ≤ 200 := by
  have readers : ∀ p, (∀ t ∈ pageReaders p, t.offersNone = true) ∧ weigh (pageReaders p) ≤ 4 := by
    intro p
    unfold pageReaders
    split <;> simp [Task.offersNone, Task.weight]
  have fault : ∀ b : Bool, (∀ t ∈ (if b then [Task.storeFault] else []), t.offersNone = true)
      ∧ weigh (if b then [Task.storeFault] else []) ≤ 1 := by
    intro b
    cases b <;> simp [Task.offersNone, Task.weight]
  have flat : ∀ ps : List Nat, weigh (ps.flatMap pageReaders) ≤ 4 * ps.length := by
    intro ps
    induction ps with
    | nil => exact Nat.le_refl 0
    | cons p ps ih => have := (readers p).2; simp only [List.flatMap_cons, weigh_append, List.length_cons]; omega
  unfold replaceCopies
  dsimp only
  constructor
  · intro t ht
    simp only [List.mem_append, List.mem_map, List.mem_flatMap] at ht
    rcases ht with (⟨j, -, rfl⟩ | ⟨q, -, hq⟩) | ht
    · rfl
    · exact (readers q).1 t hq
    · exact (fault _).1 t ht
  · rw [weigh_append, weigh_append]
    refine Nat.le_trans (Nat.add_le_add (Nat.add_le_add (weigh_map_le _ 5 (fun _ => Nat.le_refl _) _) (flat _)) (fault _).2) ?_
    have h1 : ∀ a b (ps : List Nat), (reboundBy a b ps r).length ≤ 14 := by
      intro a b ps
      exact Nat.le_trans (List.length_filter_le _ _) (by simp)
    have h2 : ∀ f : Nat × Copy → Bool, ((l.filter f).map (·.1)).length ≤ 14 := by
      intro f
      rw [List.length_map]
      exact Nat.le_trans (List.length_filter_le _ _) hl
    refine Nat.le_trans (Nat.add_le_add (Nat.add_le_add (Nat.mul_le_mul_left 5 (h1 _ _ _)) (Nat.mul_le_mul_left 4 (h2 _)))
      (Nat.le_refl 1)) (by decide)

/-- The replacement itself touches no channel record; the rebindings it sets in motion are those of R16. -/
theorem replaceCopies_spec (l : List (Nat × Copy)) (r : Bool) :
    (replaceCopies l r s).1.chans = s.chans ∧ (replaceCopies l r s).1.now = s.now
      ∧ ∀ k, Task.rebind k ∈ (replaceCopies l r s).2 ↔
          k ∈ reboundBy s (replaceCopies l r s).1 ((l.filter (fun x => r || x.2.content != pageOf s x.1)).map (·.1)) r := by
  have h1 : ∀ zones, chanPart (forEachFreely releaseForRewrite 6 zones s) = chanPart s := fun zones =>
    forEachFreely_closed (chanPart_events (chanPart s)) (fun z u hu => releaseForRewrite_closed (chanPart_events _) z hu) 6 rfl
  have h2 : ∀ u : State, (l.foldl (fun s x => setCopy x.1 x.2 s) u).chans = u.chans
      ∧ (l.foldl (fun s x => setCopy x.1 x.2 s) u).now = u.now := fun u =>
    foldl_closed (P := fun t : State => t.chans = u.chans ∧ t.now = u.now) (f := fun s (x : Nat × Copy) => setCopy x.1 x.2 s)
      (fun _ _ _ hs => hs) ⟨rfl, rfl⟩
  have tasks : ∀ (a : List (Fin 14)) (ps : List Nat) (b : Bool) (k : Fin 14),
      Task.rebind k ∈ a.map Task.rebind ++ ps.flatMap pageReaders ++ (if b then [Task.storeFault] else []) ↔ k ∈ a := by
    intro a ps b k
    have hr : ∀ p, Task.rebind k ∉ pageReaders p := by
      intro p
      unfold pageReaders
      split <;> simp
    cases b <;> simp [hr]
  unfold replaceCopies
  dsimp only
  generalize rewrittenBy s (List.filter (fun x => r || x.2.content != pageOf s x.1) l) r = zones
  have h3 := chanPart_foldl_restart zones (l.foldl (fun s x => setCopy x.1 x.2 s) (forEachFreely releaseForRewrite 6 zones s))
  have h1' := h1 zones
  simp only [chanPart, Prod.mk.injEq] at h1' h3
  refine ⟨h3.2.trans ((h2 _).1.trans h1'.2), ?_, fun k => ?_⟩
  · have ha : _ = _ := congrArg (fun x => x.1.1) h3.1
    have hb : _ = _ := congrArg (fun x => x.1.1) h1'.1
    exact ha.trans ((h2 _).2.trans hb)
  · rw [tasks]
    simp only [reboundBy, bindingBytes_congr (congrArg Prod.snd h3.1)]

/-- The channel records after working copies are replaced: a channel on a replaced page is rebound where its binding
differs, and in a reload in any case; the others are as they were (R16, R182). -/
theorem chan_install (l : List (Nat × Copy)) (r : Bool) (hl : l.length ≤ 14) (k : Fin 14) :
    chan (install l r s) k =
      if k ∈ reboundBy s (install l r s) ((l.filter (fun x => r || x.2.content != pageOf s x.1)).map (·.1)) r then
        reboundChannel s.now (bindingOf (install l r s) k) (chan s k)
      else chan s k := by
  obtain ⟨hc, hn, hm⟩ := replaceCopies_spec (s := s) l r
  obtain ⟨ht, hw⟩ := replaceCopies_tasks (s := s) l r hl
  obtain ⟨ho, hk⟩ := chan_reactTo (s := (replaceCopies l r s).1) _ hw ht
  have hs : settings (install l r s) = settings (replaceCopies l r s).1 := congrArg Prod.snd ho
  rw [show chan (install l r s) k = _ from hk k]
  simp only [hm, reboundBy, bindingBytes_congr hs, bindingOf_congr hs, hn, chan, hc]

/-- A reload of a page by the sweep rebinds every channel on it, changed or not, and no other (R16, R182). -/
theorem chan_install_reload (p : Nat) (c : Copy) (k : Fin 14) :
    chan (install [(p, c)] true s) k =
      if k ∈ channelsOn p then reboundChannel s.now (bindingOf (install [(p, c)] true s) k) (chan s k) else chan s k := by
  rw [chan_install _ _ (by simp)]
  simp [reboundBy]

end Sys2Proof.Machine
end

