-- ==== Sys2Proof/Laws/Receive.lean ====
section
/-! SUPPORT. The ports: what the line's operations can do to a port, and that the characters of a byte string read
back as that string (R125, R177). -/

namespace Sys2Proof.Machine

variable (s : State)

/-! ### Expiries -/

/-- A timer that is due expires. -/
theorem whenDue_due {w : Timer} {f : State → State} (h : w.due s.now = true) : whenDue w f s = f s := by
  simp [whenDue, h]

/-- A timer that is not due does not (R17, R27). -/
theorem whenDue_not_due {w : Timer} {f : State → State} (h : w.due s.now = false) : whenDue w f s = s := by
  simp [whenDue, h]

/-- A timer that is due runs. -/
theorem Timer.isRunning_of_due {w : Timer} {now : Nat} (h : w.due now = true) : w.isRunning = true := by
  cases w <;> first | rfl | cases h

/-- A timer restarted now, for longer than no time, is not due. -/
theorem Timer.not_due_of_restart (ms : Nat) (h : 0 < ms) : (startMs s ms).due s.now = false := by
  simp [startMs, Timer.due]; omega

/-! ### Ports -/

/-- A port that can transmit is Idle, its idle gap has elapsed, and no try of it is on the line (R125). -/
theorem mayTransmit_iff (p : Port) :
    mayTransmit p = true ↔ p.line = .idle ∧ p.gap = .elapsed ∧ p.trying.any (·.onLine) = false := by
  simp [mayTransmit, and_assoc]

/-- A port that follows a frame cannot transmit. -/
theorem not_mayTransmit_of_canReceive {p : Port} (h : canReceive p = true) : mayTransmit p = false := by
  simp only [canReceive, Bool.and_eq_true, beq_iff_eq] at h
  simp [mayTransmit, h.1]

/-- A frame at a port that follows none reaches no block. -/
theorem onFrame_not_following {id : PortId} {b : Bool} {f : State → State} (h : canReceive (port s id) = false) :
    onFrame id b f s = hearTraffic id s := by simp [onFrame, h]

/-- A frame of a legal header at a port that follows it is taken. -/
theorem onFrame_following {id : PortId} {f : State → State} (h : canReceive (port s id) = true) :
    onFrame id true f s = f s := by simp [onFrame, h]

/-! ### The part's own ack byte (R129) -/

/-- The stop bit of the part's own ack byte stands within its ack position (log 9). -/
theorem stopBitAt_bounds (id : PortId) : s.now + 3 ≤ stopBitAt id s ∧ stopBitAt id s ≤ s.now + 5 := by
  simp only [stopBitAt, ackMs]
  omega

/-- A frame answered at its completion has its port send the ack byte. -/
theorem sendsAck_complete (id : PortId) (a : Ack) : SendsAck s (complete id (some a) s) id a := by
  have h := stopBitAt_bounds s id
  cases id <;> exact ⟨_, h.1, h.2, rfl⟩

/-- At the release of a hold the port sends the answer, or another station has taken the line (R129, R149). -/
theorem releaseHold_cases (a : Ack) (h : s.up.line = .holding) :
    SendsAck s (releaseHold a s) .upstream a
      ∨ (releaseHold a s).up.line = .receiving ∧ (releaseHold a s).up.answer = none := by
  have hn : (pick 2 s).2.now = s.now := by simp [pick]
  have hu : (pick 2 s).2.up = s.up := by simp [pick]
  have hb := stopBitAt_bounds (pick 2 s).2 .upstream
  rw [hn] at hb
  simp only [releaseHold, h, if_true]
  split
  · exact .inl ⟨_, hb.1, hb.2, by simp only [port, toAnswered, hu]⟩
  · exact .inr ⟨rfl, rfl⟩

/-- A port that sends its own ack byte follows no frame, and cannot transmit. -/
theorem not_receives_of_sendsAck {p : Port} (h : p.sendsAck = true) : canReceive p = false ∧ mayTransmit p = false := by
  cases hg : p.gap <;> simp_all [Port.sendsAck, canReceive, mayTransmit]

/-- Until the byte's stop bit the port stays as it is; then it returns to Idle and its idle gap begins (R129). -/
theorem passGap_answering {n d : Nat} {p : Port} (hg : p.gap = .answering d) (hl : p.line = .receiving ∨ p.line = .holding) :
    passGap n p = if d ≤ n then { p with line := .idle, gap := .running (n + gapMs) } else p := by
  rcases hl with hl | hl <;> simp [passGap, hg, hl]

/-- No port can transmit on a line that another station has been heard to hold (R125). -/
theorem mayTransmit_hearHold (id : PortId) : mayTransmit (port (hearHold id s) id) = false := by
  cases id <;>
  · simp only [hearHold, port, onPort]
    split
    · simp [mayTransmit]
    · next h =>
      simp only [mayTransmit, canReceive] at *
      simp_all

/-! ### Failed tries (R128, R130, R132) -/

/-- A command that fails a field try in its ack position ends it as failed; the port goes to Idle, or waits after a
collision. -/
theorem exec_failsFieldTry {c : Instr} {x : Try} (hc : failsFieldTry c = true) (hp : s.powered = true)
    (hx : ackedTry s = some x) :
    ∃ leave, (leave = toIdle s ∨ leave = toWaiting .field s)
      ∧ exec c s = .next (renewOrder (settle s.seq.sup (endTry .field x leave .failed s))) := by
  cases c with
  | ackPositionEnd =>
    refine ⟨_, .inl rfl, ?_⟩
    simp only [exec, execAckPositionEnd, react_powered hp, hx]
  | ackByte v good =>
    have hr : resultOf v good = .failed := by
      cases good with
      | false => rfl
      | true =>
        simp only [failsFieldTry, Bool.not_true, Bool.false_or] at hc
        revert hc
        revert v
        decide +kernel
    refine ⟨_, .inl rfl, ?_⟩
    simp only [exec, execAckByte, react_powered hp, hx, hr]
  | collision id =>
    obtain rfl : id = .field := by simpa [failsFieldTry] using hc
    have ht : tryOnLine (port s .field) = some x := (Option.filter_eq_some_iff.mp hx).1
    refine ⟨_, .inr rfl, ?_⟩
    simp only [exec, execCollision, react_powered hp, ht]
  | _ => cases hc

/-! ### Ports at a restart -/

/-- A port held dominant waits for the release: its line is not free (R125, R138). -/
theorem gap_portAnew_held {id : PortId} {p : Port} (h : heldDominant p = true) : (portAnew id s p).gap = .held := by
  simp [portAnew, portRestart, h]

/-- Where the ack position of a try that is cut short may still be driven, the line stays in use for a free time (R138;
log 40). -/
theorem gap_portRestart_answered {id : PortId} {p : Port} (h : heldDominant p = false) (ha : mayBeAnswered p = true) :
    (portRestart id s p).gap = .running (s.now + gapMs + Config.freeTraffic s.freeIndex (id == .field)) := by
  simp [portRestart, h, ha, toWaiting]

/-- No port can transmit right after a restart (R125, R138). -/
theorem mayTransmit_portRestart (id : PortId) (p : Port) : mayTransmit (portRestart id s p) = false := by
  unfold portRestart toIdleAfterUse
  repeat' split
  all_goals simp [mayTransmit, toWaiting, toIdle]

theorem mayTransmit_portAnew (id : PortId) (p : Port) : mayTransmit (portAnew id s p) = false := by
  have h := mayTransmit_portRestart s id p
  simp only [mayTransmit, portAnew] at *
  unfold portRestart toIdleAfterUse at *
  revert h
  repeat' split
  all_goals simp [toWaiting, toIdle]

/-! ### Characters -/

theorem byteOfLevels_bits (b : Byte) :
    byteOfLevels
      [b.getLsbD 0, b.getLsbD 1, b.getLsbD 2, b.getLsbD 3, b.getLsbD 4, b.getLsbD 5, b.getLsbD 6, b.getLsbD 7] = b := by
  revert b
  decide

/-- A character is read and the characters after it with no pause behind them. -/
theorem readChars_char (pause : Nat) (b : Byte) (l : List Level) :
    readChars pause (charLevels b ++ l) = b :: readChars 0 l := by
  simp only [charLevels, List.cons_append, List.nil_append, readChars, byteOfLevels_bits, if_true]

/-- A pause of at most one character time is passed over (R126). -/
theorem readChars_pause (n pause : Nat) (l : List Level) (h : pause + n ≤ pauseBits) :
    readChars pause (List.replicate n true ++ l) = readChars (pause + n) l := by
  induction n generalizing pause with
  | zero => rfl
  | succ n ih =>
    rw [List.replicate_succ, List.cons_append, readChars, if_pos (by omega), ih _ (by omega)]
    congr 1
    omega

/-- A longer pause ends the characters (R126). -/
theorem readChars_longPause (n : Nat) (l : List Level) (h : pauseBits < n) :
    readChars 0 (List.replicate n true ++ l) = [] := by
  obtain ⟨m, rfl⟩ : ∃ m, n = pauseBits + (m + 1) := ⟨n - pauseBits - 1, by omega⟩
  rw [← List.replicate_append_replicate, List.append_assoc, readChars_pause _ _ _ (by omega), List.replicate_succ,
    List.cons_append, readChars, if_neg (by omega)]

/-- Characters after each other, each behind a pause of at most one character time, read back as their bytes. -/
theorem readChars_paused (l : List (Nat × Byte)) (h : ∀ x ∈ l, x.1 ≤ pauseBits) (rest : List Level) :
    readChars 0 (l.flatMap (fun x => List.replicate x.1 true ++ charLevels x.2) ++ rest)
      = l.map (·.2) ++ readChars 0 rest := by
  induction l with
  | nil => rfl
  | cons x l ih =>
    simp only [List.flatMap_cons, List.append_assoc, List.map_cons, List.cons_append]
    rw [readChars_pause _ _ _ (by have := h x (by simp); omega), readChars_char, ih (fun y hy => h y (by simp [hy]))]

/-- The characters of a byte string read back as that string. -/
theorem readChars_flatMap (l : List Byte) : readChars 0 (l.flatMap charLevels) = l := by
  induction l with
  | nil => rfl
  | cons b l ih => rw [List.flatMap_cons, readChars_char, ih]

end Sys2Proof.Machine
end

