-- ==== Sys2Proof/Laws/Start.lean ====
section
/-! SUPPORT. The start of power-up and Full Restart: the working copies it loads, the record pages it writes back, the
events it latches, and what it leaves in every block (R3, R97, R116, R156, R159). -/

namespace Sys2Proof.Machine

variable (s : State)

/-! ### Pages 0 and 1 (R140, R159) -/

theorem isFieldClass_iff {map : Content} {k n : Nat} :
    isFieldClass map k n = true ↔ segmentOf map n = .field ∧ classOf map n = k := by
  simp [isFieldClass]

/-- Where one element of a list without repeats passes, the filter leaves that one. -/
theorem filter_eq_singleton {p : Nat → Bool} {b : Nat} {l : List Nat} (hn : l.Nodup) (hb : b ∈ l)
    (h : ∀ n ∈ l, p n = true ↔ n = b) : l.filter p = [b] := by
  induction l with
  | nil => cases hb
  | cons x l ih =>
    rw [List.nodup_cons] at hn
    have hx := h x List.mem_cons_self
    have hl : ∀ n ∈ l, p n = true ↔ n = b := fun n hm => h n (List.mem_cons_of_mem _ hm)
    rcases List.mem_cons.mp hb with rfl | hb
    · rw [List.filter_cons_of_pos (hx.mpr rfl)]
      congr 1
      exact List.filter_eq_nil_iff.mpr (fun n hm hp => hn.1 ((hl n hm).mp hp ▸ hm))
    · rw [List.filter_cons_of_neg (fun hp => hn.1 (hx.mp hp ▸ hb)), ih hn.2 hb hl]

/-- A filter leaves a given element alone exactly where it alone passes. -/
theorem filter_eq_singleton_iff {p : Nat → Bool} {b : Nat} {l : List Nat} (hn : l.Nodup) :
    l.filter p = [b] ↔ b ∈ l ∧ ∀ n ∈ l, p n = true ↔ n = b := by
  constructor
  · intro h
    have hm : ∀ n, n ∈ l.filter p ↔ n = b := by simp [h]
    simp only [List.mem_filter] at hm
    exact ⟨((hm b).mpr rfl).1, fun n hl => ⟨fun hp => (hm n).mp ⟨hl, hp⟩, fun e => ((hm n).mpr e).2⟩⟩
  · rintro ⟨hb, h⟩
    exact filter_eq_singleton hn hb h

theorem stations_nodup : stations.Nodup := by decide

/-- The model's test of the three conditions of R140 is those conditions. -/
theorem mapMatches_iff (identity map : Content) : mapMatches identity map = true ↔ MapConditions identity map := by
  have own := filter_eq_singleton_iff (p := fun n => segmentOf map n == .own) (b := byteAt identity 0) stations_nodup
  simp only [beq_iff_eq] at own
  simp only [mapMatches, MapConditions, Bool.and_eq_true, beq_iff_eq, ownStationOf, own, List.length_eq_one_iff,
    filter_eq_singleton_iff stations_nodup, isFieldClass_iff]
  exact ⟨fun h => ⟨h.1.1.2, h.1.1.1, h.1.2, h.2⟩, fun h => ⟨⟨⟨h.2.1, h.1⟩, h.2.2.1⟩, h.2.2.2⟩⟩

/-- The start's test of the stored pair is R159's. -/
theorem pairBroken_eq_false_iff : pairBroken s = false ↔ PairFits s := by
  rw [PairFits, ← mapMatches_iff, pairBroken]
  cases (storedOf s 0).ok <;> cases (storedOf s 1).ok <;> simp

/-! ### What a start loads -/

/-- A start leaves the store as it loads it. -/
theorem store_start (now : Nat) (up field : Port) :
    (start now up field s).store = loadedStore { s with now := now } := by
  simp [start, startSequencer, startBlocks, placeSet]

theorem copyOf_start (now : Nat) (up field : Port) {p : Nat} (h : p < 21) :
    copyOf (start now up field s) p = loadedCopy { s with now := now } p := by
  unfold copyOf
  rw [store_start]
  simp [loadedStore, Vector.getD, h]

/-- No working copy that a start loads depends on the time of the start. -/
theorem loadedCopy_now (now p : Nat) : loadedCopy { s with now := now } p = loadedCopy s p := rfl

/-- The events after a start are the ones it latches. -/
theorem events_start (now : Nat) (up field : Port) : (start now up field s).mgmt.events = startEvents s := by
  have h : ∀ t : State, t.relay.utq = [] → ∀ m, (latchSet m t).mgmt.events = t.mgmt.events ||| m := by
    intro t ht m
    have hr : ∀ f, (offerRaw [] f).2 = false := fun f => rfl
    unfold latchSet
    split
    · simp [offerAlert, addEvents, setUtq, ht, hr]
    · rfl
  rw [start, h _ rfl]
  exact BitVec.zero_or

/-- The record pages a start writes back are the invalid ones, and all of them where page 14 is invalid (R116). -/
theorem mem_writtenBack (p : Nat) :
    p ∈ writtenBack s ↔ 14 ≤ p ∧ p < 19 ∧ ((storedOf s 14).ok = false ∨ (storedOf s p).ok = false) := by
  unfold writtenBack
  split
  · next h =>
    simp only [List.mem_filter, List.mem_cons, List.not_mem_nil, or_false, Bool.not_eq_true', h, Bool.true_eq_false, false_or]
    constructor
    · rintro ⟨rfl | rfl | rfl | rfl, hp⟩ <;> exact ⟨by omega, by omega, hp⟩
    · rintro ⟨h1, h2, hp⟩
      have : p ≠ 14 := by rintro rfl; simp [h] at hp
      exact ⟨by omega, hp⟩
  · next h =>
    simp only [List.mem_cons, List.not_mem_nil, or_false, Bool.not_eq_true] at *
    exact ⟨by rintro (rfl | rfl | rfl | rfl | rfl) <;> simp [h], fun hp => by omega⟩

/-- Which events a start latches (R116, R159). -/
theorem latched_startEvents (t : State) (ht : t.mgmt.events = startEvents s) :
    latched t .storeFault = (!(writtenBack s).isEmpty || pairBroken s) ∧ latched t .lockoutEntered = !(storedOf s 14).ok := by
  have hw : (storedOf s 14).ok = false → (writtenBack s).isEmpty = false := by
    intro h
    simp [writtenBack, h]
  simp only [latched, ht, startEvents]
  cases h14 : (storedOf s 14).ok <;> cases hb : (writtenBack s).isEmpty <;> cases pairBroken s <;>
    first
    | decide
    | (rw [hw h14] at hb; cases hb)

/-- A start loads the working copies as R116, R156 and R159 say. -/
theorem start_loadsCopies (now : Nat) (up field : Port) : LoadsCopies s (start now up field s) := by
  have hc : ∀ p, p < 21 → copyOf (start now up field s) p = loadedCopy s p := fun p h => copyOf_start s now up field h
  have hp : (start now up field s).store.pendingRec = writtenBack s := by rw [store_start]; rfl
  have he := events_start s now up field
  obtain ⟨hf, hl⟩ := latched_startEvents s _ he
  have hb : ¬PairFits s ↔ pairBroken s = true := by rw [← pairBroken_eq_false_iff]; simp
  refine ⟨fun p h hq => ?_, fun hq => ⟨fun p h => ?_, ?_⟩, ?_, fun p h1 h2 => ?_, fun p h => ?_, fun p => ?_, ?_, hl, ?_⟩
  · rw [hc p (by omega), loadedCopy, if_pos h]
    split
    · next hx =>
      simp only [Bool.and_eq_true, decide_eq_true_eq] at hx
      rw [(pairBroken_eq_false_iff s).mpr (hq hx.1)] at hx
      cases hx.2
    · rfl
  · rw [hc p (by omega), loadedCopy, if_pos (by omega), if_pos (by simp [h, hb.mp hq])]
  · simp [hf, hb.mp hq]
  · rw [hc 14 (by omega), loadedCopy, if_neg (by omega), if_pos rfl]
    split <;> rfl
  · rw [hc p (by omega), loadedCopy, if_neg (by omega), if_neg (by omega), if_pos h2]
  · simp only [List.mem_cons, List.not_mem_nil, or_false] at h
    rw [hc p (by omega), loadedCopy, if_neg (by omega), if_neg (by omega), if_neg (by omega)]
  · rw [hp, mem_writtenBack]
  · rintro ⟨p, h1, h2, hx⟩
    have hm : p ∈ writtenBack s := (mem_writtenBack s p).mpr ⟨h1, h2, .inr hx⟩
    rw [hf]
    cases hw : writtenBack s with
    | nil => rw [hw] at hm; cases hm
    | cons _ _ => rfl
  · intro hq hall
    have hw : writtenBack s = [] := by
      rw [List.eq_nil_iff_forall_not_mem]
      intro p hm
      obtain ⟨h1, h2, hx⟩ := (mem_writtenBack s p).mp hm
      rw [hall 14 (by omega) (by omega), hall p h1 h2] at hx
      simp at hx
    rw [he, startEvents, hw, (pairBroken_eq_false_iff s).mpr hq, hall 14 (by omega) (by omega)]
    rfl

/-! ### What a start leaves in the blocks -/

/-- The one entry of the queue upstream after a start is the alert its events raise (R116, R152, R174). -/
theorem utq_latchSet_start (m : EventSet) (hu : s.relay.utq = []) (he : s.mgmt.events = 0)
    (hm : s.mgmt.mask = defaultAlertMask) (hs : m &&& defaultAlertMask = m) :
    (latchSet m s).relay.utq =
      if m = 0 then [] else [{ frame := alertFrame (addEvents m s), onLine := false, renewed := false }] := by
  have hr : ∀ f, offerRaw [] f = ([{ frame := f, onLine := false, renewed := false }], false) := fun f => rfl
  have hx : raises m s = (m != 0) := by
    rw [raises, he, hm, show ~~~(0 : EventSet) = BitVec.allOnes 20 from rfl, BitVec.and_allOnes, hs]
  by_cases h : m = 0
  · have hf : raises m s = false := by rw [hx, h]; rfl
    rw [latchSet, hf, if_pos h]
    exact hu
  · have ht : raises m s = true := by simpa [hx] using h
    rw [latchSet, ht, if_neg h, if_pos rfl]
    simp [offerAlert, addEvents, setUtq, hu, hr]

/-- The events of a start are all in the default alert mask (R116, R174). -/
theorem startEvents_masked : startEvents s &&& defaultAlertMask = startEvents s := by
  unfold startEvents
  cases (storedOf s 14).ok <;> cases (writtenBack s).isEmpty <;> cases pairBroken s <;> decide

/-- A start latches Store Fault and Lockout Entered alone (R116, R159, R173). -/
theorem startEvents_alone (e : Event) (h1 : e ≠ .storeFault) (h2 : e ≠ .lockoutEntered) :
    (startEvents s).getLsbD e.bit = false := by
  unfold startEvents
  cases (storedOf s 14).ok <;> cases (writtenBack s).isEmpty <;> cases pairBroken s <;> revert h1 h2 <;> cases e <;> decide

/-- The set of a start state is all off (R35, R64). -/
theorem calledSet_start {t : State} (h : t.seq.sup = .stby ∨ t.seq.sup = .lock ∨ t.seq.sup = .flck) :
    calledSet t = { OutputSet.standby with damper := t.seq.sup != .stby } := by
  rcases h with h | h | h
  · simp only [calledSet, h]; rfl
  · simp only [calledSet, h]; rfl
  · simp only [calledSet, h]; rfl

theorem startState_cases : startState s = .stby ∨ startState s = .lock ∨ startState s = .flck := by
  unfold startState
  split
  · exact .inr (.inl rfl)
  · split
    · exact .inl rfl
    · exact .inr (.inr rfl)

/-- No channel is usable at reset. -/
theorem reset_unusable (k : Fin 14) : isUsable State.reset k = false := by
  revert k
  decide

/-- A zone after a start: no channel is usable yet (R97). -/
theorem startZone_reset (z : Fin 6) (t : State) (hc : t.chans = State.reset.chans) :
    startZone z t =
      { state := if (zoneRec t z).enabled then .sensorlessDuty false else .disabled
        debt := 0, lastAccrual := none
        period := if (zoneRec t z).enabled then .running (t.now + 1000 * (frostSettings t).period) else .stopped
        on := .stopped, refresh := .stopped, pumpOwed := none, valveOwed := none } := by
  have hu : isUsable t (cZone z) = false := by
    rw [← reset_unusable (cZone z)]
    simp only [isUsable, usableF, chan, hc]
    rfl
  unfold startZone
  rw [hu]
  cases (zoneRec t z).enabled <;> rfl

/-- A clamp to its own lower end is that end. -/
theorem clampNat_low {lo hi : Nat} (h : lo ≤ hi) : clampNat lo hi lo = lo := by simp [clampNat]; omega

section
variable (now : Nat) (up field : Port)

theorem now_start : (start now up field s).now = now := by simp [start, startSequencer, placeSet, startBlocks]

/-- The working copies are loaded before any block is set from them (R3, R97). -/
theorem pageOf_start (p : Nat) : pageOf (start now up field s) p = pageOf (startBlocks now up field s) p := by
  rw [pageOf, copyOf, store_start]
  rfl

/-- The channel records after a start (R3). -/
theorem chan_start (k : Fin 14) :
    chan (start now up field s) k =
      reboundChannel now (bindingOf (start now up field s) k) Channel.unboundRecord := by
  have hb : bindingOf (start now up field s) k = bindingOf (startBlocks now up field s) k := by
    simp only [bindingOf, funext (pageOf_start s now up field)]
  have hc : (start now up field s).chans =
      Vector.ofFn (fun k : Fin 14 => reboundChannel now (bindingOf (startBlocks now up field s) k) Channel.unboundRecord) := by
    simp only [start, chans_latchSet]
    rfl
  simp only [chan, hc, hb, Fin.getElem_fin, Vector.getElem_ofFn, Fin.eta]

/-- The zones after a start (R97). -/
theorem zone_start (z : Fin 6) :
    zone (start now up field s) z =
      { state := if (zoneRec (start now up field s) z).enabled then .sensorlessDuty false else .disabled
        debt := 0, lastAccrual := none
        period :=
          if (zoneRec (start now up field s) z).enabled then
            .running (now + 1000 * (frostSettings (start now up field s)).period)
          else .stopped
        on := .stopped, refresh := .stopped, pumpOwed := none, valveOwed := none } := by
  obtain ⟨b, hz, hc, hs, hn⟩ : ∃ b, (startBlocks now up field s).frost.zones = Vector.ofFn (fun z : Fin 6 => startZone z b)
      ∧ b.chans = State.reset.chans ∧ b.store = (startBlocks now up field s).store ∧ b.now = now :=
    ⟨_, rfl, rfl, rfl, rfl⟩
  have hf : (start now up field s).frost = (startBlocks now up field s).frost := by
    simp only [start, frost_latchSet]
    rfl
  have hp : ∀ p, pageOf (start now up field s) p = pageOf b p := by
    intro p
    rw [pageOf_start]
    simp only [pageOf, copyOf, hs]
  have hr : zoneRec (start now up field s) z = zoneRec b z := by simp only [zoneRec, hp]
  have ht : frostSettings (start now up field s) = frostSettings b := by simp only [frostSettings, hp]
  have := startZone_reset z b hc
  simp only [zone, hf, hz, Fin.getElem_fin, Vector.getElem_ofFn, Fin.eta, hr, ht, this, hn]

/-- The Demand Unit after a start (R21, R31). -/
theorem demand_start :
    (start now up field s).demand =
      { state := .absent, level := none, target := none, timer := .stopped, heatCall := false
        rate := clampNat (schedule (start now up field s)).lowFire (schedule (start now up field s)).highFire
          (schedule (start now up field s)).lowFire } := by
  simp only [schedule, pageOf_start]
  simp only [start, demand_latchSet]
  rfl

/-- The Sequencer after a start, with the set of its state (R35, R64). -/
theorem seq_start :
    (start now up field s).seq =
      { State.reset.seq with
        sup := startState s, lkl := (startState s).lamp
        current := { OutputSet.standby with damper := startState s != .stby } } := by
  simp only [start, seq_latchSet, startSequencer]
  rw [calledSet_start (startState_cases s)]
  rfl

/-- The Relay Unit after a start: its queue holds the alert of the start's events, or nothing (R116, R152). -/
theorem relay_start :
    (start now up field s).relay =
      { record := none, lastRefusal := none, report := .running (now + 2000)
        utq :=
          if (start now up field s).mgmt.events = 0 then []
          else
            [{ frame :=
                 { dst := managingStation (start now up field s), src := ownStation (start now up field s), kind := .alr, sub := 0
                   payload := word24 (start now up field s).mgmt.events.toNat }
               onLine := false, renewed := false }] } := by
  have he := events_start s now up field
  have hq : (start now up field s).relay.utq = _ :=
    utq_latchSet_start (startSequencer (startState s) (startBlocks now up field s)) (startEvents s) rfl rfl rfl
      (startEvents_masked s)
  have hf : alertFrame (addEvents (startEvents s) (startSequencer (startState s) (startBlocks now up field s))) =
      { dst := managingStation (start now up field s), src := ownStation (start now up field s), kind := .alr, sub := 0
        payload := word24 (startEvents s).toNat } := by
    simp only [managingStation, ownStation, pageOf_start]
    have hz : (addEvents (startEvents s) (startSequencer (startState s) (startBlocks now up field s))).mgmt.events =
        startEvents s := BitVec.zero_or
    rw [alertFrame, hz]
    rfl
  have hr : (start now up field s).relay =
      { record := none, lastRefusal := none, report := .running (now + 2000), utq := (start now up field s).relay.utq } := by
    have h1 : (start now up field s).relay.record = none := by simp only [start, record_latchSet]; rfl
    have h2 : (start now up field s).relay.lastRefusal = none := by simp only [start, lastRefusal_latchSet]; rfl
    have h3 : (start now up field s).relay.report = .running (now + 2000) := by simp only [start, report_latchSet]; rfl
    rw [← h1, ← h2, ← h3]
  rw [hr, hq, hf, he]

end

/-- A start sets every block but the ports as at power-up. -/
theorem start_startsBlocks (now : Nat) (up field : Port) : StartsBlocks s (start now up field s) := by
  have hs := seq_start s now up field
  have hd := demand_start s now up field
  have hn := now_start s now up field
  have ht := store_start s now up field
  refine ⟨fun k => ?_, hd, fun hl => ?_, ?_, ?_, fun z => ?_, ?_, ?_, ?_, ?_, ?_, ?_, ?_, ?_, ?_, ?_, ?_, ?_, ?_, ?_⟩
  · rw [chan_start, hn]
    cases bindingOf (start now up field s) k <;> rfl
  · rw [hd]
    exact clampNat_low hl
  · simp only [start, frost_latchSet]; rfl
  · simp only [start, frost_latchSet]; rfl
  · rw [zone_start, hn]
  · rw [relay_start, hn]
  · rw [hn]; simp only [start, cyc_latchSet]; rfl
  · rw [hs]; rfl
  · have hp : burnerStation (start now up field s) = burnerStation (startBlocks now up field s) := by
      simp only [burnerStation, pageOf_start]
    rw [hs, hp, ← calledSet_start (t := { startBlocks now up field s with
      seq := { (startBlocks now up field s).seq with sup := startState s, lkl := (startState s).lamp } }) (startState_cases s)]
    simp only [start, arb_latchSet]
    rfl
  · simp only [start, flue_latchSet]; rfl
  · rw [hn]; simp only [start, lock_latchSet]; rfl
  iterate 5 · rw [ht]; rfl
  · rw [ht, hn]; rfl
  · rw [ht]; rfl
  iterate 8 (refine ⟨by simp [start]; rfl, ?_⟩)
  exact fun e h1 h2 => (congrArg (fun m : EventSet => m.getLsbD e.bit) (events_start s now up field)).trans
    (startEvents_alone s e h1 h2)

end Sys2Proof.Machine
end

