-- ==== Sys2Proof/Tests/Slice0.lean ====
section
/-! SUPPORT. Tests of the model on small states: the ill-formed commands, the worked cases of the spec, what
single commands do, and witnesses that the hypotheses of the statements can be met. -/

namespace Sys2Proof.Tests

set_option Elab.async false

open Sys2Proof Sys2Proof.Machine

/-! ### Ill-formed commands -/

theorem test_illFormed_sampleDestination : (Instr.sampleFrame .field 48 24 0 []).wellFormed = false := by decide
theorem test_illFormed_sampleSource : (Instr.sampleFrame .field 0 0 0 []).wellFormed = false := by decide
theorem test_illFormed_sampleSet : (Instr.sampleFrame .field 0 24 16 []).wellFormed = false := by decide
theorem test_illFormed_samplePayload : (Instr.sampleFrame .field 0 24 0 (List.replicate 21 0)).wellFormed = false := by decide
theorem test_illFormed_demandSource : (Instr.demandFrame 48 []).wellFormed = false := by decide
theorem test_illFormed_demandPayload : (Instr.demandFrame 1 (List.replicate 21 0)).wellFormed = false := by decide
theorem test_illFormed_commandDestination : (Instr.upstreamCommand 0 1 []).wellFormed = false := by decide
theorem test_illFormed_commandSource : (Instr.upstreamCommand 21 0 []).wellFormed = false := by decide
theorem test_illFormed_commandPayload : (Instr.upstreamCommand 21 1 (List.replicate 21 0)).wellFormed = false := by decide
theorem test_illFormed_broadcastSource : (Instr.broadcastCommand 48 []).wellFormed = false := by decide
theorem test_illFormed_broadcastPayload : (Instr.broadcastCommand 1 (List.replicate 21 0)).wellFormed = false := by decide
theorem test_illFormed_fieldManagementSource : (Instr.fieldManagementFrame 0).wellFormed = false := by decide
theorem test_illFormed_mrqSource : (Instr.mrqNotManaging 48).wellFormed = false := by decide
theorem test_illFormed_chunkLength : (Instr.chnk 0 [1]).wellFormed = false := by decide
theorem test_wellFormed_limits :
    (Instr.sampleFrame .field 47 47 15 (List.replicate 20 0)).wellFormed = true
      ∧ (Instr.sampleFrame .field 0 1 0 []).wellFormed = true ∧ (Instr.chnk 3 (List.replicate 14 0)).wellFormed = true := by
  decide

/-! ### Worked cases of the spec -/

/-- The Flue Temperature binding of the worked conversion. -/
def flueBinding : Binding :=
  { source := 24, mask := 0, sampleSet := 0, wide := true, isSigned := false, shift := 2, offsetByte := 0, freshness := 10
    gain := 640, offset := -2730, low := -500, high := 4000, markers := [] }

/-- The Flue Draught binding of the worked conversion. -/
def draughtBinding : Binding :=
  { source := 24, mask := 0, sampleSet := 0, wide := true, isSigned := true, shift := 0, offsetByte := 2, freshness := 3
    gain := 128, offset := 0, low := -1000, high := 1000, markers := [] }

theorem test_worked_flueConversion : converted flueBinding (rawValue flueBinding [0x05, 0xDD]) = 1023 := by decide
theorem test_worked_draughtConversion :
    converted draughtBinding (rawValue draughtBinding [0, 0, 0xFE, 0x65]) = -206 := by decide
theorem test_worked_filter :
    updateReading 2 { v := 1000, f := 1000, acc := 16000 } 1023 = { v := 1023, f := 1006, acc := 16092 }
      ∧ updateReading 2 { v := 1023, f := 1006, acc := 16092 } 1023 = { v := 1023, f := 1010, acc := 16161 } := by decide
theorem test_worked_roundShift : [-3, -2, -1].map (fun d => roundShift d 2) = [-1, -1, 0] := by decide

/-- A channel with nothing measured, waiting. -/
def waiting : Channel := { state := .awaiting, reading := none, count := 0, lastTime := none, timer := .running 10000 }

/-- The flue channel after the good sample and the given number of saturated ones. -/
def saturated : Nat → Channel
  | 0 => (takeSample flueBinding 0 [0x05, 0xDD] waiting).chan
  | n + 1 => (takeSample flueBinding 0 [0x1B, 0x58] (saturated n)).chan

theorem test_worked_saturation :
    (saturated 0).reading = some { v := 1023, f := 1023, acc := 16368 }
      ∧ (saturated 3).reading = some { v := 4000, f := 2744, acc := 43905 } ∧ (saturated 3).state = .limited
      ∧ (saturated 4).state = .faulted ∧ (saturated 5).count = 4 ∧ (saturated 5).reading = (saturated 3).reading
      ∧ (takeSample flueBinding 0 [0x06, 0x40] (saturated 5)).chan.reading = some { v := 1270, f := 1270, acc := 20320 } := by
  decide

theorem test_worked_preheatCurve :
    [-300, -200, -121, -50, 44, 60, 150, 200].map (evalCurve (preheatCurve factoryCurves))
      = [240, 240, 193, 150, 94, 85, 45, 45] := by decide +kernel
theorem test_worked_draughtCurve :
    [-350, -300, -250, -180, 0, 75, 200].map (evalCurve (draughtCurve factoryCurves))
      = [150, 150, 142, 130, 100, 90, 80] := by decide +kernel
theorem test_worked_checkWord : checkWord ("123456789".toList.map (fun c => BitVec.ofNat 8 c.toNat)) = 0x89F6 := by
  decide +kernel

/-! ### Small states -/

/-- The state after a command. -/
def after (c : Instr) (s : State) : State :=
  match exec c s with
  | .next t => t
  | .fault _ | .refused _ => s

/-- A channel that reads `f`. -/
def reads (f : Int) : Channel :=
  { state := .fresh, reading := some (seedReading f), count := 0, lastTime := some 0, timer := .running 60000 }

/-- A port that follows a frame of another station. -/
def following (id : PortId) (s : State) : State := onPort id (fun p => { p with line := .receiving, gap := .busy }) s

/-- Both lines free. -/
def free (s : State) : State :=
  { s with up := { s.up with line := .idle, gap := .elapsed }, field := { s.field with line := .idle, gap := .elapsed } }

/-- Later than every timer of these states runs. -/
def late (s : State) : State := { s with now := 100000 }

/-- A demand for heat. -/
def heatDemand : Demand :=
  { state := .live, level := some 80, target := some 700, timer := .running 6000, heatCall := true, rate := 80 }

/-- Every bound channel reads: flue 100, draught -200, diverter 0, flame 0, oil 100, nozzle 700, water 300, outdoor
50; and heat is asked for. -/
def warmHouse : State :=
  { State.reset with
    demand := heatDemand
    chans :=
      #v[reads 100, reads (-200), reads 0, reads 0, reads 100, reads 700, reads 300, reads 50, Channel.unboundRecord,
        Channel.unboundRecord, Channel.unboundRecord, Channel.unboundRecord, Channel.unboundRecord, Channel.unboundRecord] }

/-- The same with no request. -/
def idleHouse : State := { warmHouse with demand := State.reset.demand }

/-- Every timer of the sequencer running, to a deadline long past in `inState`. -/
def allTimers : PhaseTimers :=
  { chekMax := .running 9, condMax := .running 9, preheat := .running 9, prePurge := .running 9, purgMax := .running 9
    safety := .running 9, warmMax := .running 9, stable := .running 9, postMin := .running 9, postMax := .running 9
    recycle := .running 9, coldHold := .running 9 }

/-- An attempt in a state, its proof given. -/
def attemptIn (st : SupState) (o : Option AttemptEnd) : Attempt :=
  { sequence := 318, cause := .heat, phase := st, furthest := st, start := 0, phaseEntry := 0, outdoor := some 50
    oilLine := some 100, preheat := some 60, suction := some 100, diverterBase := some 0, proof := true, flueBase := some 0
    outcome := o }

/-- A state of the sequencer, its timers due. -/
def inState (st : SupState) (o : Option AttemptEnd) (s : State) : State :=
  { late s with
    seq :=
      { s.seq with
        sup := st, frc := st.fuel, lkl := st.lamp, timers := allTimers
        attempt := if st.inAttempt then some (attemptIn st o) else none }
    flue := { proof := .running 9, loss := .running 9, watch := .armed, proofTime := some 5, lossTime := some 10 } }

/-- Locked out, with a reset list. -/
def locked (resets : List Nat) (s : State) : State :=
  changeLock (fun l => { l with locked := true, reason := some .flameLost, sequence := some 5, resets := resets }) (inState .lock none s)

/-- A try on a port's line. -/
def onLine (id : PortId) (o : Owner) (f : Frame) (s : State) : State :=
  onPort id
    (fun p =>
      { p with
        line := .transmitting, gap := .busy, dominant := .stopped
        trying := some { owner := o, frame := f, onLine := true, orphan := false, hold := .stopped } }) s

/-- A relay frame to station 21. -/
def pumpFrame : Frame := { dst := 21, src := 1, kind := .cmd, sub := 0, payload := [0x31] }

/-- A relay record for that frame, on a line that holds no more. -/
def relaying (s : State) : State :=
  { s with
    relay :=
      { s.relay with
        record :=
          some { dst := 21, frame := pumpFrame, adjusted := false, tries := 0, onLine := false, deadline := .running 300 } } }

/-- A response of no data. -/
def response : Frame := { dst := 1, src := 40, kind := .mrs, sub := 0, payload := [1, 0, 0] }

/-- A map with pump 21 and valve 25, and a zone 1 that uses them. -/
def zoneHouse : State :=
  setCopy 11 (Copy.sound (padded ([0x87] ++ int16 50 ++ word32 6000 ++ int16 80 ++ [21, 0x31, 0x30, 25, 0x41, 0x40])) .installer)
    (setCopy 1 (Copy.sound ((factoryMap.set 20 0x22).set 24 0x23) .installer) warmHouse)

/-- Zone 1 in a state, its timers due. -/
def zoneIn (st : ZoneState) (s : State) : State :=
  onZone 0 (fun w => { w with state := st, period := .running 9, on := .running 9, refresh := .running 9, lastAccrual := some 0 }) (late s)

/-- An operation on the store port, its port time over. -/
def onStorePort (o : StoreOp) (s : State) : State := { s with store := { s.store with op := some o, portTimer := .running 0 } }

/-- A transfer state. -/
def transferring (x : Transfer) (s : State) : State := { s with mgmt := { s.mgmt with transfer := x, idle := .running 9 } }

/-- Right after reset, with a request on the upstream line. -/
def asked : State := following .upstream State.reset

/-- The first set of STBY on the field line. -/
def granted : State := after .arbiterGrant (free State.reset)

/-! ### What single commands do -/

theorem test_reset_isPowerUp : powerUp (losePower State.reset) = State.reset := by decide +kernel
theorem test_decode_none : decodeTableWord 8 0 = none ∧ (State.reset.withFetchWord 8 0).pending = [] := by decide
theorem test_step_empty : (match step State.reset with | .next t => t.now | _ => 0) = 1 := by decide +kernel
theorem test_powerLoss : (after .powerLoss warmHouse).powered = false ∧ (after .powerLoss warmHouse).chans[0].state = .unbound := by
  decide +kernel
theorem test_localResetPush : (after .localResetPush (locked [3] idleHouse)).seq.sup = .stby
    ∧ (lockPage (after .localResetPush (locked [3] idleHouse))).resets = [3] := by decide +kernel
theorem test_commissioningLinkChange : (after (.commissioningLinkChange true) State.reset).link = true := by decide +kernel
theorem test_sampleFrame :
    (after (.sampleFrame .field 0 24 0 [0x05, 0xDD]) (following .field State.reset)).chans[0].reading = some { v := 1023, f := 1023, acc := 16368 }
      ∧ (after (.sampleFrame .field 0 24 0 [0x05, 0xDD]) (following .field State.reset)).relay.utq.length = 1 := by decide +kernel
theorem test_freshnessExpiry : (after (.freshnessExpiry 0) (late warmHouse)).chans[0].state = .stale
    ∧ latched (after (.freshnessExpiry 0) (late warmHouse)) .channelStale = true := by decide +kernel
theorem test_demandFrame : (after (.demandFrame 1 [120, 0x03, 0x84]) (following .upstream warmHouse)).demand.level = some 100
    ∧ (after (.demandFrame 1 [120, 0x03, 0x84]) (following .upstream warmHouse)).up.answer = some .ackA := by decide +kernel
theorem test_demandTimerExpiry : (after .demandTimerExpiry (late warmHouse)).demand.state = .stale
    ∧ (after .demandTimerExpiry (late warmHouse)).demand.heatCall = false := by decide +kernel
theorem test_chekMaximumExpiry : (after .chekMaximumExpiry (inState .chek none (setChan 1 (reads 60) warmHouse))).seq.sup = .rcyw := by
  decide +kernel
theorem test_preheatTimerExpiry : (after .preheatTimerExpiry (inState .cond none warmHouse)).seq.sup = .purg
    ∧ (after .preheatTimerExpiry (inState .cond none warmHouse)).seq.current.fan = 100 := by decide +kernel
theorem test_condMaximumExpiry : (after .condMaximumExpiry (inState .cond none (setChan 4 (reads 5) warmHouse))).seq.sup = .cold := by
  decide +kernel
theorem test_prePurgeExpiry : (after .prePurgeExpiry (inState .purg none warmHouse)).seq.sup = .ignt
    ∧ (after .prePurgeExpiry (inState .purg none warmHouse)).seq.frc = true := by decide +kernel
theorem test_purgMaximumExpiry : (after .purgMaximumExpiry (inState .purg none warmHouse)).seq.failCount = 1 := by decide +kernel
theorem test_proofTimerExpiry : (after .proofTimerExpiry (inState .purg none warmHouse)).flue.proof = .stopped := by decide +kernel
theorem test_safetyTimeExpiry : (after .safetyTimeExpiry (inState .ignt none warmHouse)).seq.sup = .post
    ∧ (after .safetyTimeExpiry (inState .ignt none warmHouse)).seq.frc = false := by decide +kernel
theorem test_warmMaximumExpiry :
    latched (after .warmMaximumExpiry (inState .warm none (setChan 3 (reads 500) warmHouse))) .flueNotRising = true := by
  decide +kernel
theorem test_lossTimerExpiry :
    latched (after .lossTimerExpiry (inState .fire none (setChan 3 (reads 500) warmHouse))) .draughtFailed = true := by
  decide +kernel
theorem test_stableFiringExpiry :
    (after .stableFiringExpiry (inState .fire none { warmHouse with seq := { warmHouse.seq with failCount := 2 } })).seq.failCount
      = 0 := by decide +kernel
theorem test_postMinimumExpiry : (after .postMinimumExpiry (inState .post (some .normalStop) idleHouse)).seq.sup = .stby := by
  decide +kernel
theorem test_postMaximumExpiry : (after .postMaximumExpiry (inState .post (some (.lockout .flameLost)) warmHouse)).seq.lkl = .steady := by
  decide +kernel
theorem test_recycleWaitExpiry : (after .recycleWaitExpiry (inState .rcyw none idleHouse)).seq.sup = .stby := by decide +kernel
theorem test_coldHoldExpiry : (after .coldHoldExpiry (inState .cold none idleHouse)).seq.sup = .stby := by decide +kernel
theorem test_rePlaceTimerExpiry :
    (after .rePlaceTimerExpiry
        { late warmHouse with
          seq := { warmHouse.seq with rePlace := .running 9 }, arb := { warmHouse.arb with pending := none } }).arb.pending
      = some { dst := 12, set := OutputSet.standby } := by decide +kernel
theorem test_periodTimerExpiry :
    zone (after (.periodTimerExpiry 0) (zoneIn (.sensorlessDuty false) (setChan 7 (reads 0) zoneHouse))) 0
      = { state := .sensorlessDuty true, debt := 0, lastAccrual := some 0, period := .running 1900000, on := .running 400000
          refresh := .running 160000, pumpOwed := none, valveOwed := none } := by decide +kernel
theorem test_onTimerExpiry : (after (.onTimerExpiry 0) (zoneIn (.sensorlessDuty true) zoneHouse)).arb.frostQ.map (fun e => (e.station, e.frame.code))
    = [(21, 0x30), (25, 0x40)] := by decide +kernel
theorem test_refreshTimerExpiry : (after (.refreshTimerExpiry 0) (zoneIn .protecting zoneHouse)).arb.frostQ.map (fun e => (e.station, e.frame.code))
    = [(21, 0x31), (25, 0x41)] := by decide +kernel
theorem test_minuteTimerExpiry : (lockPage (after .minuteTimerExpiry (locked [59, 3] idleHouse))).resets = [4] := by decide +kernel
theorem test_upstreamCommand : (after (.upstreamCommand 21 1 [0x31]) (following .upstream zoneHouse)).up.line = .holding
    ∧ (after (.upstreamCommand 12 1 [0x10]) (following .upstream zoneHouse)).up.answer = some .nakR := by decide +kernel
theorem test_broadcastCommand : (after (.broadcastCommand 1 [0x31]) (following .upstream zoneHouse)).arb.relaySlot.isSome = true := by decide +kernel
theorem test_ownCommandFrame : (after (.ownCommandFrame .field) (following .field State.reset)).field.answer = some .nakM := by decide +kernel
theorem test_fieldManagementFrame : (after (.fieldManagementFrame 24) (following .field State.reset)).relay.lastRefusal.isSome = true := by decide +kernel
theorem test_fieldFrameOther : (after .fieldFrameOther (following .field { State.reset with now := 7 })).cyc.silence = .running 5007 := by decide +kernel
theorem test_reportTimerExpiry : (after .reportTimerExpiry (late State.reset)).relay.utq.map (fun e => e.frame.payload.length) = [19] := by
  decide +kernel
theorem test_frameCheckFail : (after (.frameCheckFail .upstream) (following .upstream State.reset)).up.gap = .running 5 := by decide +kernel
theorem test_frameAbandoned : (after (.frameAbandoned .upstream) (following .upstream State.reset)).up.line = .receiving := by decide +kernel
theorem test_arbiterGrant : (after .arbiterGrant (free State.reset)).field.trying.map (fun t => t.frame.payload) = some [0x10, 0, 0, 0] := by
  decide +kernel
theorem test_upstreamSend : (after .upstreamSend (setUtq [{ frame := response, onLine := false, renewed := false }] (free State.reset))).up.trying.map
    (fun t => t.owner) = some .utq := by decide +kernel
theorem test_arbitrationLost : (after (.arbitrationLost .upstream) (onLine .upstream .utq response State.reset)).up.trying.map
    (fun t => t.onLine) = some false := by decide +kernel
theorem test_collision : (after (.collision .upstream) (onLine .upstream .utq response State.reset)).up.line = .receiving := by
  decide +kernel
theorem test_lineStuck : latched (after (.lineStuck .field) State.reset) .lineStuck = true := by decide +kernel
theorem test_stuckEnd : (after (.stuckEnd .field) (after (.lineStuck .field) State.reset)).field.line = .idle := by decide +kernel
theorem test_openerSeen : (after (.openerSeen .field) (free State.reset)).field.line = .receiving := by decide +kernel
theorem test_cycleTimerExpiry : (after .cycleTimerExpiry (late State.reset)).arb.markWaiting = some 0
    ∧ (after .cycleTimerExpiry (late State.reset)).cyc.index = 1 := by decide +kernel
theorem test_fieldSilenceExpiry : latched (after .fieldSilenceExpiry (late State.reset)) .fieldSilent = true := by decide +kernel
theorem test_upstreamFrameNoEffect : (after .upstreamFrameNoEffect (following .upstream State.reset)).up.answer = none := by decide +kernel
theorem test_mrqNotManaging : (after (.mrqNotManaging 3) (following .upstream State.reset)).up.answer = some .nakR := by decide +kernel
theorem test_malformedManagementRequest : (after .malformedManagementRequest asked).up.answer = some .nakM := by decide +kernel
theorem test_stat : (after .stat asked).mgmt.mailbox = .answering := by decide +kernel
theorem test_chan : (after (.chan 14) asked).relay.utq.map (fun e => e.frame.payload) = [[2, 4, 0]] := by decide +kernel
theorem test_attr : (after (.attr 2) asked).relay.utq.map (fun e => e.frame.payload) = [[3, 4, 0]] := by decide +kernel
theorem test_evnt : (after (.evnt 0xFFFFFF) (latch [.spillage] asked)).mgmt.events = 0 := by decide +kernel
theorem test_amsk : (after (.amsk 0) asked).mgmt.mask = 0 := by decide +kernel
theorem test_openTransfer : (after (.openTransfer 1 9 1) asked).mgmt.transfer = .fetching 9 0 1 := by decide +kernel
theorem test_chnk : (after (.chnk 0 []) (transferring (.fetching 9 0 1) asked)).store.mgmtClaim = some (.fetch 9) := by decide +kernel
theorem test_flsh : (after .flsh (transferring (.fetching 9 0 1) asked)).mgmt.transfer = .closed := by decide +kernel
theorem test_eras : (after (.eras 13) asked).store.mgmtClaim = some (.erase 13)
    ∧ (after (.eras 9) asked).relay.utq.map (fun e => e.frame.payload) = [[9, 1, 0]] := by decide +kernel
theorem test_rlck : (lockPage (after .rlck (following .upstream (locked [1] idleHouse)))).resets = [1, 0] := by decide +kernel
theorem test_clrh : (after .clrh asked).store.pendingRec = [15, 16, 17, 18] := by decide +kernel
theorem test_rfsl : (after .rfsl asked).mgmt.mailbox = .answering := by decide +kernel
theorem test_srst : (after .srst asked).mgmt.restart = .softAsked := by decide +kernel
theorem test_frst : (after .frst asked).mgmt.restart = .fullAsked := by decide +kernel
theorem test_frameSent_arms :
    (after (.frameSent .upstream)
        (onLine .upstream .utq response { State.reset with mgmt := { State.reset.mgmt with restart := .fullAsked } })).mgmt.restart
      = .fullArmed := by decide +kernel
theorem test_fullRestartEffect :
    (after .fullRestartEffect { warmHouse with mgmt := { warmHouse.mgmt with restart := .fullArmed } }).chans[0].state = .awaiting := by
  decide +kernel
/-- Full Restart armed, with the Field Port as given. -/
def armed (f : Port → Port) : State :=
  onPort .field f { free warmHouse with mgmt := { warmHouse.mgmt with restart := .fullArmed } }

theorem test_fullRestartEffect_heldLine :
    let stuck := after .fullRestartEffect (armed (fun p => { p with line := .stuck, gap := .busy }))
    let freed := after (.stuckEnd .field) { stuck with now := 100 }
    stuck.field.gap = .held ∧ stuck.field.line = .idle ∧ freed.field.gap = .running 105
      ∧ (after .fullRestartEffect (armed id)).field.gap = .running 5 := by decide +kernel
theorem test_idleTimerExpiry : (after .idleTimerExpiry (transferring (.loading 9 0 0) (late State.reset))).mgmt.lastReject = some .incomplete := by
  decide +kernel
theorem test_storePortGrant : (after .storePortGrant (locked [] idleHouse)).store.op.isSome = true := by decide +kernel
theorem test_storePort_waits :
    let s := after .storePortGrant { locked [] idleHouse with now := 7 }
    s.store.portTimer = .running 32 ∧ (after .recordWriteComplete { s with now := 31 }).store.op = s.store.op
      ∧ (after .recordWriteComplete { s with now := 32 }).store.op = none := by decide +kernel
theorem test_recordWriteComplete :
    (storedOf (after .recordWriteComplete (onStorePort (.recordWrite 15 zeroContent false) State.reset)) 15).ok = true := by
  decide +kernel
theorem test_managementWriteComplete :
    (copyOf (after .managementWriteComplete (onStorePort (.write 13 factoryFrost .single) State.reset)) 13).source = .installer := by
  decide +kernel
theorem test_eraseComplete : (storedOf (after .eraseComplete (onStorePort (.erase 13) State.reset)) 13).ok = false := by decide +kernel
theorem test_fetchReadComplete :
    (after .fetchReadComplete (onStorePort (.fetch 9) (transferring (.fetching 9 0 0) State.reset))).mgmt.buffer = factoryLimits := by
  decide +kernel
theorem test_sweepTimerExpiry : (after .sweepTimerExpiry (late State.reset)).store.sweepClaim = some .check := by decide +kernel
theorem test_checkStepComplete : (after .checkStepComplete (onStorePort (.check 0) State.reset)).store.sweepPos = 1 := by decide +kernel
theorem test_repairWriteComplete :
    (storedOf (after .repairWriteComplete (onStorePort (.repair 0 factoryIdentity) State.reset)) 0).ok = true := by decide +kernel
theorem test_relayDeadlineExpiry :
    latched (after .relayDeadlineExpiry (relaying (late zoneHouse))) .relayTimeout = true := by decide +kernel
theorem test_ackByte : (after (.ackByte 0x60 true) granted).arb.inFlight = none := by decide +kernel
theorem test_ackPositionEnd : (after .ackPositionEnd granted).arb.inFlight.map (fun x => x.tries) = some 1 := by
  decide +kernel
theorem test_holdBegun : (after .holdBegun granted).field.trying.map (fun t => t.hold) = some (.running 500) := by
  decide +kernel
theorem test_holdLimitExpiry : (after .holdLimitExpiry (late (after .holdBegun granted))).field.gap = .held := by
  decide +kernel

/-! ### The hypotheses of the statements can be met

One theorem per statement; each clause's hypotheses at the state named, at the edges of their ranges. -/

/-- Without supply. -/
def unpowered : State := { State.reset with powered := false }

/-- Warm, with a flame that keeps CHEK from passing on. -/
def flaming : State := setChan 3 (reads 250) warmHouse

/-- A spoiled content of a stored page and of the working copy of page `p`. -/
def spoiled (copy stored : Bool) (p : Nat) (s : State) : State :=
  let s1 := if stored then setStored p (Image.invalid (storedOf s p).content) s else s
  if copy then setCopy p { copyOf s1 p with check := (copyOf s1 p).check + 1 } s1 else s1

/-- An Output Set frame. -/
def setTo (valve : Bool) : SetFrame := { dst := 12, set := { OutputSet.standby with valve := valve } }

/-- The Sequencer's frame on the line, after some failed tries, with or without a newer set. -/
def setTry (st : SupState) (valve : Bool) (tries : Nat) (newer : Bool) : State :=
  let s := onLine .field .sequencer (setFrame State.reset (setTo valve)) (inState st none warmHouse)
  { s with
    arb :=
      { s.arb with inFlight := some { frame := setTo valve, tries := tries }, pending := if newer then some (setTo false) else none } }

/-- A relay transaction with its frame on the line, after some failed tries. -/
def relayTry (tries : Nat) : State :=
  let s := relaying (onLine .field .relay pumpFrame zoneHouse)
  { s with
    up := { s.up with line := .holding }
    relay := { s.relay with record := s.relay.record.map (fun c => { c with tries := tries, onLine := true }) }
    arb := { s.arb with relaySlot := some { frame := pumpFrame, broadcast := false, late := false } } }

/-- A broadcast that has passed, on the field line. -/
def broadcasting : State :=
  let f : Frame := { dst := 0, src := 1, kind := .cmd, sub := 0, payload := [0x31] }
  let s := onLine .field .relay f zoneHouse
  { s with arb := { s.arb with relaySlot := some { frame := f, broadcast := true, late := false } } }

/-- A broadcast leaves the Relay slot when it has been sent, and stays in it at a collision (R132, R146). -/
theorem test_broadcast_ends :
    (after (.frameSent .field) broadcasting).arb.relaySlot = none
      ∧ (after (.collision .field) broadcasting).arb.relaySlot = broadcasting.arb.relaySlot
      ∧ (after (.collision .field) broadcasting).field.trying = none := by decide +kernel

/-- A release frame at the head of the Frost queue and on the line, after some failed tries. -/
def frostTry (tries : Nat) : State :=
  let s := onLine .field .frost (frostFrame zoneHouse 21 0x30) zoneHouse
  { s with
    arb :=
      { s.arb with
        frostQ :=
          [{ station := 21, frame := { code := 0x30, zone := 0, toValve := false, release := true }, tries := tries
             inFlight := true, successor := none }] } }

/-- The same with the pump's on code waiting as its successor. -/
def frostSuperseded : State :=
  { frostTry 2 with
    arb :=
      { (frostTry 2).arb with
        frostQ :=
          (frostTry 2).arb.frostQ.map
            (fun e => { e with successor := some { code := 0x31, zone := 0, toValve := false, release := false } }) } }

/-- A try failed by another byte gives way to its successor, and nothing is latched (R106, R128). -/
theorem test_frostTry_superseded :
    ∀ t ∈ [after (.ackByte 0x55 true) frostSuperseded],
      t.arb.frostQ.map (fun e => (e.frame.code, e.tries, e.inFlight, e.successor.isSome)) = [(0x31, 0, false, false)]
        ∧ latched t .fieldNoAnswer = false ∧ (zone t 0).pumpOwed = none := by decide +kernel

/-- The valve's hold code the same way. -/
def frostHeld : State :=
  { frostTry 0 with
    arb :=
      { (frostTry 0).arb with
        frostQ :=
          [{ station := 25, frame := { code := 0x41, zone := 0, toValve := true, release := false }, tries := 0
             inFlight := true, successor := none }] } }

/-- A queued response on the line upstream. -/
def sending (r : Restart) : State :=
  let s := setUtq [{ frame := response, onLine := true, renewed := false }] (onLine .upstream .utq response State.reset)
  { s with mgmt := { s.mgmt with mailbox := .answering, restart := r } }

/-- A response about to be sent for `r`, with an Output Set's try on the field line, and its hold. -/
def cutting (r : Restart) (hold : Timer) : State :=
  let s := onLine .field .sequencer (setFrame State.reset (setTo false)) (sending r)
  { s with
    field := { s.field with trying := s.field.trying.map (fun t => { t with hold := hold }) }
    arb := { s.arb with inFlight := some { frame := setTo false, tries := 0 }, pending := none } }

/-- A try that a Soft Restart cuts short leaves its line in use, and a hold that follows keeps it so until the
release (R138). -/
theorem test_softRestart_cutTry :
    let cut := after (.frameSent .upstream) (cutting .softAsked .stopped)
    let held := after .holdBegun cut
    cut.field.line = .idle ∧ cut.field.trying = none ∧ mayTransmit cut.field = false
      ∧ cut.arb.inFlight.map (·.tries) = some 1
      ∧ held.field.gap = .held ∧ (after .ackPositionEnd held).field.gap = .running 5 := by decide +kernel

/-- A port in a line state whose own ack byte ends at 3 ms. -/
def answeringPort (line : LineState) (p : Port) : Port := { p with line := line, gap := .answering 3 }

/-- A port that answers at once stays in Receiving, one that releases its hold in Holding, until the ack byte's stop
bit, and is Idle from then on (R129). -/
theorem test_ackByte_stopBit :
    let own := (after (.ownCommandFrame .field) (following .field State.reset)).field
    let held := (after (.ackByte 0x60 true) (relayTry 0)).up
    own.line = .receiving ∧ own.sendsAck = true ∧ held.line = .holding ∧ held.sendsAck = true ∧ held.answer = some .ack
      ∧ ∀ line ∈ [LineState.receiving, .holding], ∀ p ∈ [answeringPort line State.reset.up],
          passGap 2 p = p ∧ passGap 3 p = { p with line := .idle, gap := .running 8 } := by decide +kernel

/-- A Permit Table with one entry: the burner class, code 31H, refuse. -/
def permitHouse : State := setCopy 6 (Copy.sound (padded [0, 0x31, 0x30, 0]) .installer) zoneHouse

/-- Four channels of a binding page, each fed by a station of its own in sample set 1. -/
def aloneBindings (first : Nat) : Content :=
  padded
    ((List.range 4).flatMap (fun i => coreBytes (30 + first + i) 1 true true 0 0 10 256 0 (-3000) 4000))

/-- Channels 0 to 11 each fed alone, by station 30 and its number, at a Field Port that follows a frame. -/
def aloneHouse : State :=
  following .field
    (setCopy 2 (Copy.sound (aloneBindings 0) .installer)
      (setCopy 3 (Copy.sound (aloneBindings 4) .installer) (setCopy 4 (Copy.sound (aloneBindings 8) .installer) zoneHouse)))

/-- A frame of the value `v` feeds channel `k` alone. -/
def alone (s : State) (k : Fin 14) (v : Int) : Bool :=
  s.powered && canReceive s.field && (Instr.sampleFrame .field 0 (30 + k.val) 1 (int16 v)).wellFormed && (deferredPages s).isEmpty
    && fedChannels s (30 + k.val) 1 (int16 v) == [k]
    && (bindingOf s k).all (fun b => (takeSample b s.now (int16 v) (chan s k)).changed)

theorem feedsAlone_of_alone {s : State} {k : Fin 14} {v : Int} (h : alone s k v = true) :
    FeedsAlone s .field 0 (30 + k.val) 1 (int16 v) k := by
  simp only [alone, Bool.and_eq_true, List.isEmpty_iff, beq_iff_eq] at h
  obtain ⟨⟨⟨⟨⟨h1, h2⟩, h3⟩, h4⟩, h5⟩, h6⟩ := h
  refine ⟨h1, h2, h3, h4, h5, fun b hb => ?_⟩
  rw [hb] at h6
  exact h6

/-- `Undisturbed`, evaluated. -/
def undisturbed (s : State) : Bool :=
  match s.seq.sup with
  | .chek => !chekMet s
  | .cond => !flamePresent s && !condMet s
  | .purg => !flamePresent s && !purgMet s
  | .ignt => !flamePresent s && !spills s
  | .warm => !spills s && !flueIsHigh s && !flameLost s
  | .fire => !spills s && !flueIsHigh s && !flameLost s && isUsable s cFlue
  | .stby | .post | .rcyw | .cold | .lock | .flck => true

theorem undisturbed_iff (s : State) : undisturbed s = true ↔ Undisturbed s := by
  unfold undisturbed Undisturbed
  cases s.seq.sup <;> simp [and_assoc]

/-- Ten samples queued upstream, the first on the line, and a Field Port that follows a frame. -/
def fullQueue (ev : EventSet) (mask : EventSet) : State :=
  setUtq
    ((List.range 10).map (fun i =>
      { frame := { dst := 0, src := i + 1, kind := .smp, sub := 0, payload := [] }, onLine := i == 0, renewed := false }))
    { following .field State.reset with mgmt := { State.reset.mgmt with events := ev, mask := mask } }

theorem utqForm_fullQueue (ev mask : EventSet) : UtqForm (fullQueue ev mask).relay.utq := by
  have h : UtqForm
      ((List.range 10).map (fun i =>
        ({ frame := { dst := 0, src := i + 1, kind := .smp, sub := 0, payload := [] }, onLine := i == 0, renewed := false } : UtqEntry))) := by
    unfold UtqForm
    decide
  exact h

theorem utqForm_reset : UtqForm State.reset.relay.utq := by
  unfold UtqForm
  decide

theorem resetListForm_reset : ResetListForm State.reset := by
  have hp : (decodeLock (pageOf State.reset 14)).resets = [] := by decide +kernel
  have hs : (decodeLock (storedOf State.reset 14).content).resets = [] := by decide +kernel
  have ho : State.reset.store.op = none ∧ State.reset.store.mgmtClaim = none ∧ State.reset.mgmt.transfer = .closed := by decide +kernel
  refine ⟨?_, fun _ => ?_, ?_, ?_, ?_, ?_, ?_, ?_, ?_, ?_⟩
  · intro age h
    rw [hp] at h
    cases h
  · intro age h
    rw [hs] at h
    cases h
  · intro c a h
    rw [ho.1] at h
    cases h
  · intro c h
    rw [ho.1] at h
    cases h
  · intro p c a h
    rw [ho.1] at h
    cases h
  · intro p h
    rw [ho.1] at h
    cases h
  · intro p a h
    rw [ho.2.1] at h
    cases h
  · intro p h
    rw [ho.2.1] at h
    cases h
  · intro p c n h
    rw [ho.2.2] at h
    cases h
  · intro p n h
    rw [ho.2.2] at h
    cases h

theorem witness_EmptyQueueIsAMillisecond :
    State.reset.pending = [] ∧ unpowered.pending = [] ∧ State.reset.powered = true ∧ unpowered.powered = false
      ∧ (∀ id ∈ [PortId.upstream, .field], (port State.reset id).gap = .running 5)
      ∧ (let s := { State.reset with now := 4 }; 5 ≤ s.now + 1 ∧ s.up.line = .idle) ∧ (let s := { State.reset with now := 3 }; s.now + 1 < 5)
      ∧ (let s := { onPort .field (fun p => { p with line := .receiving }) State.reset with now := 4 }
         s.field.gap = .running 5 ∧ s.field.line = .receiving)
      ∧ (onLine .field .mark (markFrame State.reset 7) State.reset).field.line = .transmitting
      ∧ (∀ line ∈ [LineState.receiving, .holding], ∀ now ∈ [1, 2],
          let s := { onPort .upstream (answeringPort line) State.reset with now := now }
          s.up.gap = .answering 3 ∧ s.up.line = line ∧ (3 ≤ s.now + 1 ∨ s.now + 1 < 3)) := by decide +kernel

/-- For the six statements of requests that are taken: LockoutRequestsAreJudged, ReadingCommandsOnlyAnswer,
EventsAreClearedAndMasked, TransferOpensAndCloses, ChunkIsJudged, LoadAndEraseAreJudged. -/
theorem witness_TakesRequest : TakesRequest asked ∧ TakesRequest (following .upstream (locked [1, 2, 3] idleHouse)) := by
  unfold TakesRequest UtqForm
  decide +kernel

theorem witness_SupplyAndLink :
    unpowered.powered = false ∧ State.reset.powered = true
      ∧ (onStorePort (.erase 13) State.reset).store.op.bind StoreOp.spoils = some 13 := by decide +kernel

/-- Without supply, with valid installer pages 0 and 1 that do not fit each other. -/
def brokenPair : State := setStored 0 (Image.valid factoryContents[0]) (setStored 1 (Image.valid zeroContent) unpowered)

theorem brokenPair_broken : pairBroken brokenPair = true := by decide +kernel

theorem witness_PowerUpDecidesTheState :
    (unpowered.powered = false ∧ (storedOf unpowered 14).ok = true ∧ (storedOf (spoiled false true 14 unpowered) 14).ok = false
      ∧ (storedOf (spoiled false true 15 unpowered) 15).ok = false ∧ (storedOf (spoiled false true 18 unpowered) 18).ok = false
      ∧ (∀ p ∈ [14, 15, 16, 17, 18], (storedOf unpowered p).ok = true) ∧ brokenPair.powered = false)
      ∧ PairFits unpowered ∧ ¬PairFits brokenPair := by
  refine ⟨by decide +kernel, (pairBroken_eq_false_iff _).mp (by decide +kernel), fun h => ?_⟩
  have := (pairBroken_eq_false_iff _).mpr h
  simp [brokenPair_broken] at this

/-- The premise within `StartsBlocks`: a Schedule whose Low Fire is not above its High Fire (R31). -/
theorem witness_StartsBlocks :
    ∀ t ∈ [after .powerUp unpowered], (schedule t).lowFire ≤ (schedule t).highFire := by decide +kernel

/-- A start with page 14 invalid queues one alert, of both events (R116, R174, R178). -/
theorem test_powerUp_alert :
    (after .powerUp unpowered).relay.utq = []
      ∧ (after .powerUp (spoiled false true 14 unpowered)).relay.utq.map (fun e => (e.frame.kind, e.frame.payload))
          = [(.alr, [0x00, 0x80, 0x02])] := by decide +kernel

/-- A start falls back to the factory pages of a pair that does not fit (R159), and empties and writes back an invalid
history page (R116). -/
theorem test_powerUp_fallbacks :
    (copyOf (after .powerUp brokenPair) 0).source = .factory ∧ latched (after .powerUp brokenPair) .storeFault = true
      ∧ (after .powerUp (spoiled false true 16 unpowered)).store.pendingRec = [16] := by decide +kernel

theorem witness_FullRestartWaitsForAQuietStore :
    { State.reset with mgmt := { State.reset.mgmt with restart := .fullArmed } }.store.op = none
      ∧ State.reset.store.pendingRec = [] ∧ State.reset.mgmt.restart ≠ .fullArmed
      ∧ (armed id).mgmt.restart = .fullArmed ∧ (armed id).store.op = none ∧ (armed id).store.pendingRec = []
      ∧ (armed (fun p => { p with line := .stuck, gap := .busy })).field.line = .stuck
      ∧ (armed (fun p => { p with line := .receiving, gap := .held })).field.gap = .held
      ∧ (armed (fun p => { p with line := .receiving, gap := .busy, trying := none })).field.trying = none
      ∧ canReceive (armed (fun p => { p with line := .receiving, gap := .busy, trying := none })).field = true
      ∧ (armed id).field.line = .idle ∧ (armed id).field.gap = .elapsed ∧ (armed id).field.trying = none
      ∧ (∀ s ∈ [cutting .fullArmed .stopped],
          s.field.line = .transmitting ∧ s.field.gap = .busy ∧ s.store.op = none ∧ s.store.pendingRec = []
            ∧ s.field.trying.any (fun x => x.onLine && x.frame.needsAck && !x.hold.isRunning) = true) := by decide +kernel

theorem witness_LocalResetPushActsInLockAlone :
    State.reset.seq.sup ≠ .lock
      ∧ (let s := locked [1, 2, 3] idleHouse; s.seq.sup = .lock ∧ requests s = false ∧ deferredPages s = [])
      ∧ (let s := locked [] flaming
         s.seq.sup = .lock ∧ s.lock.factoryFault = false ∧ requests s = true ∧ overheated s = false ∧ chekMet s = false) := by
  decide +kernel

theorem witness_LockoutRequestsAreJudged :
    (lockPage (locked [1, 2, 3] idleHouse)).resets.length = 3
      ∧ (let s := locked [1, 2] idleHouse; (lockPage s).resets.length = 2 ∧ requests s = false ∧ deferredPages s = []) := by
  decide +kernel

theorem witness_MinuteAgesTheResetList :
    (let s := locked [59, 58] idleHouse; s.powered = true ∧ s.lock.minute.due s.now = true ∧ (lockPage s).resets = [59, 58])
      ∧ (late State.reset).lock.minute.due (late State.reset).now = true ∧ (lockPage (late State.reset)).resets = []
      ∧ ResetListForm State.reset ∧ (∃ t, step { State.reset with pending := [.minuteTimerExpiry] } = .next t) := by
  refine ⟨by decide +kernel, by decide +kernel, by decide +kernel, resetListForm_reset, ⟨_, rfl⟩⟩

theorem witness_FrameFeedsTheChannelsItMatches :
    flueBinding.source < 64 ∧ frameMatches flueBinding 24 0 [0, 0] = true ∧ frameMatches flueBinding 24 0 [0] = false
      ∧ frameMatches { flueBinding with mask := 63 } 63 0 [0, 0] = true := by decide

theorem witness_SampleFrameFeedsEachMatchingChannel :
    (∀ id ∈ [PortId.upstream, .field], canReceive (port (following id State.reset) id) = true
        ∧ (following id State.reset).powered = true ∧ deferredPages (following id State.reset) = [])
      ∧ (Instr.sampleFrame .field 47 47 15 []).wellFormed = true
      ∧ State.reset.relay.utq.length = 0
      ∧ (∀ s ∈ [fullQueue 0 0, fullQueue 0 defaultAlertMask, fullQueue Event.upstreamDrop.only defaultAlertMask],
          canReceive s.field = true ∧ s.relay.utq.length = 10
            ∧ (47, 15) ∉ sampleKeys s.relay.utq ∧ (10, 0) ∈ sampleKeys s.relay.utq
            ∧ fedChannels s 47 15 [] = [] ∧ fedChannels s 10 0 [] = [])
      ∧ latched (fullQueue Event.upstreamDrop.only defaultAlertMask) .upstreamDrop = true
      ∧ (0 : EventSet).getLsbD Event.upstreamDrop.bit = false := by
  decide +kernel

/-- For AcceptedSampleRestartsFreshness as well. -/
theorem witness_SampleVerdictAndFilter :
    (let b := { flueBinding with gain := 256, offset := 0, markers := [9] }
     rawValue b [0, 9] ∈ b.markers ∧ converted b (rawValue b [0x0F, 0xA0]) = b.high ∧ converted b (rawValue b [0x0F, 0xA1]) = b.high + 1)
      ∧ (let b := { draughtBinding with gain := 256 }
         converted b (rawValue b [0, 0, 0xFC, 0x18]) = b.low ∧ converted b (rawValue b [0, 0, 0xFC, 0x17]) = b.low - 1)
      ∧ (saturated 2).count = 2 ∧ (saturated 3).count = 3 ∧ (saturated 3).state.usable = true ∧ (saturated 4).state.usable = false
      ∧ (takeSample flueBinding 0 [0x05, 0xDD] (saturated 3)).accepted = some false
      ∧ (takeSample flueBinding 0 [0x05, 0xDD] (saturated 4)).accepted = some true
      ∧ (takeSample flueBinding 0 [0x1B, 0x58] (saturated 3)).accepted = none := by decide

theorem witness_TimeLimitsMakeStale :
    (let s := late warmHouse
     s.powered = true ∧ deferredPages s = []
       ∧ (∀ k ∈ [(0 : Fin 14), 7], (chan s k).timer.due s.now = true ∧ (chan s k).state = .fresh)
       ∧ (chan (setChan 13 { reads 0 with state := .faulted } s) 13).state = .faulted
       ∧ (chan (setChan 13 { reads 0 with state := .limited } s) 13).state = .limited
       ∧ s.demand.timer.due s.now = true ∧ s.demand.state = .live)
      ∧ (chan (late State.reset) 0).timer.due (late State.reset).now = true ∧ (chan State.reset 0).state = .awaiting
      ∧ (∀ c ∈ [Instr.freshnessExpiry 0, .demandTimerExpiry, .sweepTimerExpiry], isExpiry c = true ∧ timely warmHouse c = false)
      ∧ (let s := { warmHouse with now := 5999 }; timely s .demandTimerExpiry = false)
      ∧ (let s := { warmHouse with now := 6000 }; timely s .demandTimerExpiry = true) := by decide +kernel

theorem witness_DemandFrameAccepted :
    (canReceive asked.up = true ∧ stationOk 1 = true ∧ managingStation asked = 1 ∧ deferredPages asked = [])
      ∧ (let s := following .upstream (setChan 1 (reads 60) idleHouse)
         canReceive s.up = true ∧ managingStation s = 1 ∧ s.seq.sup = .stby ∧ requests s = false ∧ overheated s = false
           ∧ chekMet s = false ∧ (after (.demandFrame 1 [80, 2, 188]) s).demand.heatCall = true) := by
  decide +kernel

theorem witness_FramesTurnedAway :
    payloadOk [1, 2] = true ∧ stationOk 47 = true ∧ 47 ≠ managingStation asked ∧ managingStation asked = 1
      ∧ canReceive asked.up = true ∧ canReceive (following .field State.reset).field = true
      ∧ segment zoneHouse 21 = .field ∧ segment zoneHouse 40 = .own ∧ segment zoneHouse 1 = .upstream ∧ segment zoneHouse 47 = .absent
      ∧ segment zoneHouse 0 = .absent := by decide +kernel

/-- Burning, with the flame proven. -/
def burning (st : SupState) : State := inState st none (setChan 3 (reads 600) aloneHouse)

/-- The same in `st`, with a demand for water hotter than the limit. -/
def eager (st : SupState) (s : State) : State := inState st none { s with demand := { heatDemand with target := some 1200 } }

/-- The states of an attempt whose outcome is open, in the house that feeds each channel alone. -/
def attemptStates : List State :=
  [inState .chek none (setChan 1 (reads 60) aloneHouse), inState .cond none aloneHouse, inState .purg none aloneHouse,
    inState .ignt none aloneHouse, burning .warm, burning .fire]

theorem witness_DemandFrameAccepted_ends :
    ∀ s ∈ attemptStates, (following .upstream s).up.line = .receiving ∧ (following .upstream s).up.gap = .busy
      ∧ managingStation s = 1 ∧ s.demand.heatCall = true ∧ s.frost.boilerCall = false ∧ s.frost.zoneCall = false
      ∧ overheated s = false ∧ isUsable s cWater = true ∧ undisturbed s = true ∧ 0 < (schedule s).postMin
      ∧ s.seq.sup.undecided = true ∧ (after (.demandFrame 1 [0, 2, 188]) (following .upstream s)).demand.heatCall = false
      ∧ (after (.demandFrame 1 [0, 2, 188]) (following .upstream s)).seq.sup
          = (if s.seq.sup = .chek ∨ s.seq.sup = .cond then .stby else .post) := by decide +kernel

theorem witness_ExpiryDecidesTheOutcome :
    (∀ s ∈ attemptStates, s.powered = true ∧ requests s = true ∧ 0 < (schedule s).postMin ∧ s.seq.attempt = some (attemptIn s.seq.sup none)
        ∧ deferredPages s = [] ∧ overheated s = false ∧ isUsable s cWater = true ∧ undisturbed s = true
        ∧ s.demand.timer.due s.now = true ∧ s.demand.state = .live ∧ s.frost.boilerCall = false ∧ s.frost.zoneCall = false
        ∧ (chan s cFlue).timer.due s.now = true ∧ (chan s cWater).timer.due s.now = true ∧ s.flue.watch = .armed
        ∧ s.flue.loss.due s.now = true)
      ∧ attemptStates.map (fun s => s.seq.sup) = [.chek, .cond, .purg, .ignt, .warm, .fire]
      ∧ (allTimers.chekMax.due 100000 && allTimers.condMax.due 100000 && allTimers.purgMax.due 100000
          && allTimers.safety.due 100000 && allTimers.warmMax.due 100000) = true := by decide +kernel

theorem witness_ExpiryDecidesTheOutcome_samples :
    (∀ st ∈ [SupState.cond, .purg], ∀ s ∈ [inState st none aloneHouse], alone s cFlame 400 = true ∧ condMet s = false ∧ purgMet s = false
        ∧ holdsF (sampled s cFlame (int16 400)) cFlame (fun f => (limits s).flameOn ≤ f) = true)
      ∧ (∀ st ∈ [SupState.warm, .fire], ∀ s ∈ [burning st], alone s cFlame 249 = true ∧ alone s cFlue 2800 = true
        ∧ (∀ u ∈ [sampled s cFlame (int16 249), sampled s cFlue (int16 2800)],
            overheated u = false ∧ isUsable u cWater = true ∧ spills u = false ∧ isUsable u cFlue = true)
        ∧ flueIsHigh (sampled s cFlame (int16 249)) = false
        ∧ holdsF (sampled s cFlame (int16 249)) cFlame (fun f => (limits s).flameOff ≤ f) = false
        ∧ flameLost (sampled s cFlue (int16 2800)) = false
        ∧ holdsF (sampled s cFlue (int16 2800)) cFlue (fun f => (limits s).flueHigh ≤ f) = true)
      ∧ (∀ s ∈ [inState .ignt none aloneHouse, burning .warm, burning .fire], alone s cDiverter 150 = true
        ∧ holdsF (sampled s cDiverter (int16 150)) cDiverter (fun f => (limits s).spillageRise ≤ f - 0) = true)
      ∧ (∀ st ∈ [SupState.chek, .cond, .purg, .ignt], ∀ s ∈ [eager st (setChan 1 (reads 60) aloneHouse)],
        alone s cWater 950 = true ∧ s.demand.heatCall = true
        ∧ (let u := sampled s cWater (int16 950)
           undisturbed u = true ∧ heatNext u = true ∧ holdsF u cWater (fun f => (limits s).waterHigh ≤ f) = true)) := by
  decide +kernel

theorem witness_ExpiryOpensThePassage :
    ∀ s ∈ [inState .cond none warmHouse, inState .purg none warmHouse],
      s.powered = true ∧ requests s = true ∧ overheated s = false ∧ isUsable s cWater = true ∧ flamePresent s = false
        ∧ spills s = false ∧ s.seq.frc = s.seq.sup.fuel ∧ s.seq.attempt = some (attemptIn s.seq.sup none)
        ∧ s.seq.timers.preheat.due s.now = true ∧ s.seq.timers.prePurge.due s.now = true ∧ s.flue.proof.due s.now = true := by
  decide +kernel

/-- Waiting for its draught proof, or burning without a draught loss. -/
def unproven (s : State) : State :=
  { s with
    seq := { s.seq with attempt := s.seq.attempt.map (fun a => { a with proof := false }) }
    flue := { s.flue with proof := .stopped, loss := .stopped } }

theorem witness_ExpiryOpensThePassage_samples :
    (let s := inState .chek none (setChan 1 (reads 60) aloneHouse)
     alone s cDraught 50 = true ∧ chekMet (sampled s cDraught (int16 50)) = true ∧ flamePresent s = false ∧ overheated s = false
       ∧ 0 < preheatTime s ∧ requests s = true ∧ s.seq.attempt.isSome = true)
      ∧ (let s := unproven (inState .ignt none aloneHouse)
         alone s cFlame 400 = true ∧ holdsF (sampled s cFlame (int16 400)) cFlame (fun f => (limits s).flameOn ≤ f) = true
           ∧ flameLost (sampled s cFlame (int16 400)) = false ∧ spills s = false ∧ flueIsHigh s = false ∧ s.flue.loss = .stopped)
      ∧ (let s := burning .warm
         alone s cFlue 250 = true ∧ undisturbed (sampled s cFlue (int16 250)) = true
           ∧ holdsF (sampled s cFlue (int16 250)) cFlue (fun f => (schedule s).requiredRise ≤ f - 0) = true)
      ∧ (let s := unproven (inState .purg none aloneHouse)
         ∀ v ∈ [(-100 : Int), -99], alone s cDraught v = true ∧ undisturbed (sampled s cDraught (int16 v)) = true
           ∧ s.seq.attempt.any (fun a => !a.proof) = true)
      ∧ (∀ s ∈ [unproven (burning .warm), unproven (burning .fire)], ∀ v ∈ [(-50 : Int), -49],
          alone s cDraught v = true ∧ undisturbed (sampled s cDraught (int16 v)) = true)
      ∧ (∀ s ∈ [inState .cond none aloneHouse, inState .purg none aloneHouse, inState .ignt none aloneHouse, burning .warm],
          ∀ v ∈ [(19 : Int), 20, 29, 30], alone s cOil v = true ∧ undisturbed (sampled s cOil (int16 v)) = true
            ∧ overheated s = false ∧ isUsable s cWater = true) := by decide +kernel

theorem witness_FailureCountFollowsItsLimit :
    (∀ n ∈ [0, 1, 2], n ≤ (schedule State.reset).recycleLimit) ∧ (schedule State.reset).recycleLimit = 2
      ∧ (let s := inState .fire none warmHouse; s.seq.timers.stable.due s.now = true)
      ∧ State.reset.seq.failCount ≤ (schedule State.reset).recycleLimit ∧ (∃ t, step State.reset = .next t) := by
  refine ⟨by decide +kernel, by decide +kernel, by decide +kernel, by decide +kernel, ⟨_, rfl⟩⟩

theorem witness_PostAndWaitsEnd :
    (∀ o ∈ [AttemptEnd.normalStop, .failed .flameLost, .notCounted .coldOil, .lockout .flameLost],
        (inState .post (some o) flaming).seq.attempt = some (attemptIn .post (some o)))
      ∧ (∀ s ∈ [inState .post (some .normalStop) flaming, inState .rcyw none flaming, inState .cold none flaming],
          deferredPages s = [] ∧ requests s = true ∧ overheated s = false ∧ chekMet s = false)
      ∧ requests (inState .post (some .normalStop) idleHouse) = false
      ∧ holdsF flaming cFlue (fun f => f < (limits flaming).flueCool) = true
      ∧ (let s := setChan 0 (reads (limits flaming).flueCool) flaming; holdsF s cFlue (fun f => f < (limits s).flueCool) = false)
      ∧ (allTimers.postMax.due 100000 && allTimers.postMin.due 100000 && allTimers.recycle.due 100000 && allTimers.coldHold.due 100000) = true := by
  decide +kernel

theorem witness_FieldTimersAct :
    (late State.reset).cyc.timer.due 100000 = true ∧ (late State.reset).cyc.silence.due 100000 = true
      ∧ { State.reset with seq := { State.reset.seq with rePlace := .running 0 } }.seq.rePlace.due 0 = true := by decide +kernel

theorem witness_CurveHeldFlatAndBetweenItsPoints :
    [((0 : Int), (5 : Int)), (10, 1), (20, 9)].Pairwise (fun p q => p.1 < q.1)
      ∧ [((0 : Int), (5 : Int)), (10, 1), (20, 9)] = [(0, 5)] ++ (10, 1) :: (20, 9) :: []
      ∧ evalCurve [(0, 5), (10, 1), (20, 9)] 15 = 5 ∧ evalCurve [(0, 5), (8, 1)] 1 = 4 ∧ evalCurve [(0, 1), (8, 5)] 1 = 2 := by decide

theorem witness_FrostDebtAccrues :
    (let s := zoneIn .accruing zoneHouse; (zone s 0).state.sensed = true ∧ (zone s 0).lastAccrual = some 0)
      ∧ (zone (zoneSample 0 false (-9) { zoneIn .accruing zoneHouse with now := 60000 }) 0).state = .protecting
      ∧ (∀ st ∈ [ZoneState.quiet, .accruing, .protecting], ∀ s ∈ [zoneIn st aloneHouse],
          alone s (cZone 0) (-50) = true ∧ (zone s 0).state.sensed = true ∧ (bindingOf s (cZone 0)).isSome = true
            ∧ usableF (sampled s (cZone 0) (int16 (-50))) (cZone 0) = some (-50))
      ∧ (∀ v ∈ [(50 : Int), 70], alone (zoneIn .protecting aloneHouse) cWater v = true)
      ∧ DebtsBounded State.reset ∧ (∃ t, step State.reset = .next t) := by
  refine ⟨by decide +kernel, by decide +kernel, by decide +kernel, by decide +kernel, ?_, ⟨_, rfl⟩⟩
  unfold DebtsBounded
  decide +kernel

theorem witness_DutyFollowsItsTimers :
    (∀ on ∈ [true, false], ∀ f ∈ [(29 : Int), 30], ∀ s ∈ [zoneIn (.sensorlessDuty on) (setChan 7 (reads f) zoneHouse)],
        (zone s 0).state = .sensorlessDuty on ∧ deferredPages s = [] ∧ (zone s 0).period.due s.now = true
          ∧ (zone s 0).on.due s.now = true ∧ outdoorCold s = (f == 29)
          ∧ (zoneRec s 0).valve.isSome = true ∧ (zoneRec s 0).pump.isSome = true) := by decide +kernel

theorem witness_DutyFollowsItsTimers_sensor :
    (∀ st ∈ [ZoneState.quiet, .accruing, .protecting], ∀ s ∈ [zoneIn st (setChan 8 (reads 20) aloneHouse)],
          s.powered = true ∧ deferredPages s = [] ∧ isUsable s (cZone 0) = true ∧ (chan s (cZone 0)).timer.due s.now = true)
      ∧ (∀ st ∈ [ZoneState.sensorlessHeld, .sensorlessDuty true, .sensorlessDuty false], ∀ s ∈ [zoneIn st aloneHouse],
          alone s (cZone 0) (-50) = true ∧ (zone s 0).state.sensorless = true
            ∧ (bindingOf s (cZone 0)).any (fun b =>
                (takeSample b s.now (int16 (-50)) (chan s (cZone 0))).accepted.isSome) = true) := by
  decide +kernel

theorem witness_DutyFollowsItsTimers_rewrite :
    (∀ p ∈ [11, 12], ∀ s ∈ [onStorePort (.write p factoryZones .single) (zoneIn .protecting zoneHouse)],
          s.store.op = some (.write p factoryZones .single) ∧ s.store.portTimer.due s.now = true ∧ deferredPages s = [] ∧ s.relay.utq = [] ∧ (zone s 0).state.holds = true)
      ∧ zoneBytes factoryZones 0 ≠ zoneBytes (pageOf zoneHouse 11) 0 ∧ zonePage 0 = 11 ∧ zonePage 5 = 12 := by
  decide +kernel

/-- Zone 1 owes what its stations did not take, and zone 2 holds station 21 where `shared`. -/
def owing (st : ZoneState) (shared : Bool) : State :=
  let s :=
    onZone 0
      (fun w => { w with pumpOwed := some { station := 21, code := 0x30 }, valveOwed := some { station := 26, code := 0x40 } })
      (zoneIn st zoneHouse)
  if shared then
    onZone 1 (fun w => { w with state := .protecting })
      (setCopy 11
        (Copy.sound
          (padded
            ([0x87] ++ int16 50 ++ word32 6000 ++ int16 80 ++ [21, 0x31, 0x30, 25, 0x41, 0x40] ++ [0x87] ++ int16 50
              ++ word32 6000 ++ int16 80 ++ [21, 0x31, 0x30, 26, 0x41, 0x40]))
          .installer)
        s)
  else s

theorem witness_RefreshRepeatsTheHold :
    (let s := zoneIn .protecting zoneHouse; (zone s 0).refresh.due s.now = true ∧ (zone s 0).state.holds = true)
      ∧ (∀ st ∈ [ZoneState.quiet, .protecting], ∀ shared ∈ [true, false], ∀ s ∈ [owing st shared],
          (zone s 0).refresh.due s.now = true ∧ (zone s 0).state.holds = (st == .protecting)
            ∧ (zone s 0).pumpOwed = some { station := 21, code := 0x30 } ∧ (zone s 0).valveOwed = some { station := 26, code := 0x40 }
            ∧ heldByOther s 0 21 = shared ∧ heldByOther s 0 26 = shared
            ∧ namesStation (zoneRec s 0) 26 = false) := by decide +kernel

theorem witness_UpstreamCommandIsJudged :
    (segment zoneHouse 40 = .own ∧ segment zoneHouse 1 = .upstream ∧ segment zoneHouse 47 = .absent ∧ segment zoneHouse 21 = .field)
      ∧ judgeDirected zoneHouse 21 [] = .malformed ∧ judgeDirected zoneHouse 12 [0x10] = .refused .owned
      ∧ judgeDirected zoneHouse 21 [0x31] = .passed [0x31] false ∧ slotHoldsBroadcast zoneHouse = false
      ∧ slotHoldsBroadcast (after (.broadcastCommand 1 [0x31]) (following .upstream zoneHouse)) = true
      ∧ canReceive (following .upstream zoneHouse).up = true := by decide +kernel

theorem witness_PermitsDecideInOrder :
    isFieldClass (pageOf zoneHouse 1) classBurner 12 = true ∧ isFieldClass (pageOf zoneHouse 1) classBurner 21 = false
      ∧ 0x30 ∈ heldCodes (zoneIn .protecting zoneHouse) 21 ∧ 0x31 ∉ heldCodes (zoneIn .protecting zoneHouse) 21
      ∧ permits zoneHouse = []
      ∧ permits permitHouse = [] ++ { cls := 0, code := 0x31, action := PermitAction.refuse } :: []
      ∧ classOf (pageOf zoneHouse 1) 12 = 0 ∧ classOf (pageOf zoneHouse 1) 21 ≠ 0
      ∧ applyPermit (.clamp 1 10 20) .fire [0x31] = .malformed ∧ applyPermit (.clamp 1 10 20) .fire [0x31, 10] = .passed [0x31, 10] false
      ∧ applyPermit (.clamp 1 10 20) .fire [0x31, 9] = .passed [0x31, 10] true
      ∧ applyPermit (.clamp 1 10 20) .fire [0x31, 21] = .passed [0x31, 20] true
      ∧ applyPermit (.passIn (2 ^ SupState.fire.code)) .fire [0x31] = .passed [0x31] false
      ∧ applyPermit (.passIn (2 ^ SupState.fire.code)) .warm [0x31] = .refused .state := by decide +kernel

/-- A Permit Table of two entries for code 31H: the burner class, refuse; every class, refuse. -/
def permitAllHouse : State := setCopy 6 (Copy.sound (padded [0, 0x31, 0x30, 0, 0xE0, 0x31, 0x30, 0]) .installer) zoneHouse

theorem witness_PermitsDecideInOrder_broadcast :
    judgeBroadcast zoneHouse [0x10] = .refused .owned ∧ judgeBroadcast permitHouse [0x31] = .passed [0x31] false
      ∧ permits permitAllHouse =
          [{ cls := 0, code := 0x31, action := PermitAction.refuse }] ++ { cls := 7, code := 0x31, action := .refuse } :: []
      ∧ judgeBroadcast permitAllHouse [0x31] = .refused .table
      ∧ (∀ s ∈ [zoneIn .protecting zoneHouse], (zone s 0).state.holds = true
          ∧ (zoneRec s 0).pump = some { station := 21, holdCode := 0x31, releaseCode := 0x30 }
          ∧ (zoneRec s 0).valve = some { station := 25, holdCode := 0x41, releaseCode := 0x40 }
          ∧ judgeBroadcast s [0x40] = .refused .frostHold ∧ judgeBroadcast s [0x41] = .passed [0x41] false)
      ∧ (∀ z : Fin 6, (zone zoneHouse z).state.holds = false) := by decide +kernel

/-- The relay frame on the line has been answered at its deadline. -/
def lateRelay : State :=
  let s := relayTry 0
  { s with arb := { s.arb with relaySlot := s.arb.relaySlot.map (fun x => { x with late := true }) } }

/-- A directed frame in the slot keeps it; one answered at its deadline gives it up (log 19). -/
theorem test_broadcast_slot :
    (after (.broadcastCommand 1 [0x31]) (following .upstream (relayTry 0))).arb.relaySlot = (relayTry 0).arb.relaySlot
      ∧ (after (.broadcastCommand 1 [0x31]) (following .upstream lateRelay)).arb.relaySlot.map (·.frame.dst) = some 0 := by
  decide +kernel

theorem witness_BroadcastIsNeverAnswered :
    judgeBroadcast zoneHouse [] = .malformed ∧ judgeBroadcast zoneHouse [0x31] = .passed [0x31] false
      ∧ judgeBroadcast (zoneIn .protecting zoneHouse) [0x30] = .refused .frostHold
      ∧ (∀ x ∈ [(relayTry 0, false), (lateRelay, true)], ∀ s ∈ [following .upstream x.1], canReceive s.up = true
          ∧ judgeBroadcast s [0x31] = .passed [0x31] false ∧ s.arb.relaySlot.map (fun y => (y.broadcast, y.late)) = some (false, x.2))
      ∧ (∀ s ∈ [after (.broadcastCommand 1 [0x31]) (following .upstream zoneHouse)], slotHoldsBroadcast s = true
          ∧ relayOnLine s = false) := by decide +kernel

theorem witness_RelayDeadlineAnswersTooLate :
    (∀ s ∈ [relaying (late zoneHouse), late (relayTry 0)], s.powered = true ∧ s.relay.record.any (fun c => c.deadline.due s.now) = true)
      ∧ relayOnLine (relayTry 0) = true ∧ (relayTry 0).relay.record.any (·.onLine) = true
      ∧ relayOnLine (relaying zoneHouse) = false ∧ (relayTry 0).up.line = .holding := by decide +kernel

theorem witness_ReportIsQueued : (late State.reset).relay.report.due 100000 = true ∧ UtqForm State.reset.relay.utq := by
  unfold UtqForm
  decide +kernel

/-- A sample of the flue temperature, as the flue module sends it. -/
def flueSample : Frame := { dst := 0, src := 24, kind := .smp, sub := 0, payload := [0x05, 0xDD] }

theorem test_charLevels : charLevels 0x61 = [false, true, false, false, false, false, true, true, false, true] := by decide
theorem test_opener : opener.length = 12 ∧ flueSample.levels.length = 12 + 10 * 8 := by decide +kernel
theorem test_heard : heard .field State.reset (flueSample.wire.flatMap charLevels) = .sampleFrame .field 0 24 0 [0x05, 0xDD] := by
  decide +kernel
theorem test_heard_request :
    heard .upstream State.reset
        (Frame.wire { dst := 40, src := 1, kind := .mrq, sub := 0, payload := [0x06, 1, 9, 0] } |>.flatMap charLevels)
      = .openTransfer 1 9 0 := by decide +kernel
theorem test_stopBit_abandons : readLevels ((charLevels 0x61).dropLast ++ [false]) = .abandoned := by decide
theorem test_pause :
    let wire := flueSample.wire.flatMap charLevels
    let paused (n : Nat) : List Level := wire.take 20 ++ List.replicate n true ++ wire.drop 20
    readLevels (paused 1) = .valid flueSample ∧ readLevels (paused 10) = .valid flueSample
      ∧ readLevels (paused 11) = .abandoned := by decide +kernel

theorem witness_PortFollowsTheLine :
    (∀ id ∈ [PortId.upstream, .field], mayTransmit (port (free State.reset) id) = true
        ∧ canReceive (port (following id State.reset) id) = true
        ∧ (port (after (.lineStuck id) State.reset) id).line = .stuck ∧ (port State.reset id).line ≠ .stuck
        ∧ (port State.reset id).dominant.isRunning = false
        ∧ (let p := port (after (.openerSeen id) (free State.reset)) id
           p.dominant.isRunning = true ∧ p.dominant.due 997 = false ∧ p.dominant.due 998 = true))
      ∧ (let p := (after .holdLimitExpiry (late (after .holdBegun granted))).field; p.line = .receiving ∧ p.gap = .held)
      ∧ headerOk flueSample.dst flueSample.src flueSample.kind.code flueSample.sub flueSample.payload.length = true
      ∧ headerOk 47 47 2 15 20 = true
      ∧ (∀ h ∈ [(48, 24, 1, 0, 0), (0, 0, 1, 0, 0), (0, 48, 1, 0, 0), (0, 24, 0, 0, 0), (0, 24, 9, 0, 0), (0, 24, 1, 1, 0), (0, 24, 1, 0, 21)],
          headerOk h.1 h.2.1 h.2.2.1 h.2.2.2.1 h.2.2.2.2 = false)
      ∧ [(0 : Byte), 0] ≠ flueSample.wire.drop (4 + flueSample.payload.length)
      ∧ flueSample.wire.length = 8 ∧ ([0, 10, 0, 1, 0, 0, 0, 10].head? = some 0 ∧ ∀ n ∈ [0, 10, 0, 1, 0, 0, 0, 10], n ≤ 10) := by
  decide +kernel

theorem witness_FreeLinesAreGranted :
    (let s := free State.reset
     mayTransmit s.field = true ∧ s.field.trying = none ∧ s.arb.pending.isSome = true ∧ mayTransmit s.up = true
       ∧ s.up.trying = none ∧ s.powered = true)
      ∧ (let a := { State.reset.arb with pending := none, markWaiting := some 7 }; a.inFlight = none ∧ a.markWaiting = some 7)
      ∧ (relayTry 0).arb.relaySlot.isSome = true ∧ (frostTry 0).arb.frostQ.length = 1
      ∧ (setUtq [{ frame := response, onLine := false, renewed := false }] (free State.reset)).relay.utq.length = 1 := by
  decide +kernel

theorem witness_LostArbitrationIsSentAgain :
    (∀ s ∈ [setTry .stby false 0 false, relayTry 0, frostTry 0],
        s.field.trying.any (fun t => t.onLine && !t.orphan) = true ∧ slotLate s = false)
      ∧ (let s := after (.arbitrationLost .field) (setTry .stby false 0 false)
         s.field.trying.any (fun t => !t.onLine) = true ∧ mayTransmit (free s).field = true ∧ (free s).field.trying = s.field.trying)
      ∧ (let s := relayTry 0
         slotLate { s with arb := { s.arb with relaySlot := s.arb.relaySlot.map (fun x => { x with late := true }) } } = true) := by
  decide +kernel

theorem witness_OutputSetTryEnds :
    (∀ newer ∈ [true, false], ∀ tries ∈ [0, 1, 2], ∀ s ∈ [setTry .stby false tries newer, setTry .fire true tries newer],
        s.arb.pending.isSome = newer ∧ s.arb.inFlight.any (fun y => y.tries == tries) = true
          ∧ s.field.trying.any (fun t => t.owner == .sequencer && t.onLine && !t.orphan && t.frame.needsAck) = true)
      ∧ (∀ newer ∈ [true, false], ∀ s ∈ [setTry .fire true 2 newer],
         s.powered = true ∧ s.seq.sup.fuel = true ∧ 0 < (schedule s).postMin ∧ s.seq.attempt = some (attemptIn .fire none)) := by
  decide +kernel

/-- The failed tries of OutputSetTryEnds, RelayTryEnds and FrostTryEnds. -/
theorem witness_failsFieldTry :
    (∀ c ∈ [Instr.ackPositionEnd, .ackByte 0x70 true, .ackByte 0x73 true, .ackByte 0x55 true, .ackByte 0x60 false,
        .collision .field], failsFieldTry c = true)
      ∧ ∀ c ∈ [Instr.ackByte 0x60 true, .ackByte 0x61 true, .ackByte 0x71 true, .ackByte 0x72 true, .collision .upstream],
          failsFieldTry c = false := by decide

theorem witness_RelayTryEnds :
    (∀ s ∈ [lateRelay],
      s.field.trying.any (fun t => t.owner == .relay && t.onLine && !t.orphan && t.frame.needsAck) = true
        ∧ s.arb.relaySlot.any (fun y => y.late) = true) ∧
    ∀ tries ∈ [0, 1, 2], ∀ s ∈ [relayTry tries],
      s.field.trying.any (fun t => t.owner == .relay && t.onLine && !t.orphan && t.frame.needsAck) = true
        ∧ s.relay.record.any (fun c => c.tries == tries) = true ∧ s.up.line = .holding
        ∧ s.arb.relaySlot.any (fun y => !y.late && !y.broadcast) = true := by decide +kernel

theorem witness_FrostTryEnds :
    (∀ tries ∈ [0, 1, 2], ∀ s ∈ [frostTry tries],
      s.field.trying.any (fun t => t.owner == .frost && t.onLine && !t.orphan && t.frame.needsAck) = true
        ∧ s.arb.frostQ.any (fun e => e.inFlight && e.tries == tries && e.frame.release && e.successor.isNone) = true
        ∧ (zone s 0).state.holds = false)
      ∧ frostHeld.arb.frostQ.any (fun e => e.inFlight && !e.frame.release) = true
      ∧ (∀ s ∈ [frostSuperseded], s.field.trying.any (fun t => t.owner == .frost && t.onLine && !t.orphan && t.frame.needsAck) = true
          ∧ s.arb.frostQ.any (fun e => e.inFlight && e.successor.isSome) = true)
      ∧ (∀ s ∈ [onZone 0 (fun w => { w with state := .protecting }) (frostTry 2)], (zone s 0).state.holds = true
          ∧ s.arb.frostQ.any (fun e => e.inFlight && e.frame.release && e.successor.isNone) = true) := by decide +kernel

theorem witness_HoldRunsToItsLimit :
    (setTry .stby false 0 true).field.trying.any (fun t => t.onLine && t.frame.needsAck && !t.hold.isRunning) = true
      ∧ (after .holdBegun (setTry .stby false 0 true)).field.trying.any (fun t => t.hold.due 100500 && !t.orphan && t.owner == .sequencer) = true
      ∧ (setTry .stby false 0 true).arb.pending.isSome = true
      ∧ (after .holdBegun (relayTry 0)).field.trying.any (fun t => t.hold.due 100500 && t.owner == .relay) = true
      ∧ (∀ s ∈ [free State.reset], s.field.trying = none ∧ s.field.line = .idle ∧ canReceive s.field = false ∧ s.field.gap ≠ .held)
      ∧ (∀ s ∈ [onPort .field (fun p => { p with line := .receiving, gap := .running 9 }) State.reset],
          s.field.trying = none ∧ s.field.line = .receiving ∧ canReceive s.field = false ∧ s.field.gap ≠ .held) := by
  decide +kernel

theorem witness_TryWithoutAckEnds :
    (onLine .field .mark (markFrame State.reset 7) State.reset).field.trying.any (fun t => t.owner == .mark && !t.frame.needsAck) = true
      ∧ (sending .nothing).up.trying.any (fun t => t.owner == .utq && !t.frame.needsAck && t.onLine && !t.orphan) = true
      ∧ (sending .nothing).relay.utq.length = 1 ∧ (sending .nothing).mgmt.restart = .nothing
      ∧ broadcasting.field.trying.any (fun t => t.owner == .relay && t.onLine && !t.orphan && !t.frame.needsAck) = true
      ∧ broadcasting.arb.relaySlot.any (fun y => y.broadcast && !y.late) = true := by decide +kernel

theorem witness_MailboxTurnsRequestsAway :
    isRequest .stat = true ∧ canReceive asked.up = true ∧ asked.mgmt.mailbox = .empty ∧ (Instr.chnk 0 [1]).wellFormed = false
      ∧ ({ asked with mgmt := { asked.mgmt with mailbox := .answering } }).mgmt.mailbox ≠ .empty
      ∧ requestOf [0x0F] = .malformedManagementRequest ∧ requestOf [0x01, 0] = .malformedManagementRequest
      ∧ requestOf (0x07 :: 0 :: List.replicate 15 0) = .malformedManagementRequest := by decide

theorem witness_AlertsAreRaisedOnce :
    (latched State.reset .storeFault = false ∧ State.reset.mgmt.mask.getLsbD Event.storeFault.bit = true)
      ∧ State.reset.mgmt.mask.getLsbD Event.relayTimeout.bit = false ∧ latched (latch [.storeFault] State.reset) .storeFault = true
      ∧ (∀ s ∈ [fullQueue 0 Event.storeFault.only, fullQueue 0 (Event.storeFault.only ||| Event.upstreamDrop.only)],
          latched s .storeFault = false ∧ s.mgmt.mask.getLsbD Event.storeFault.bit = true) := by
  decide +kernel

theorem test_alert_evicts : latched (latch [.storeFault] (fullQueue 0 Event.storeFault.only)) .upstreamDrop = true := by decide +kernel

theorem witness_TransferOpensAndCloses :
    (∀ x ∈ [((2 : Nat), (0 : Nat), (0 : Nat)), (0, 0, 16), (0, 14, 0), (0, 0, 14), (1, 21, 0), (1, 6, 15)],
        2 ≤ x.1 ∨ 16 ≤ x.2.2 ∨ (x.1 = 0 ∧ 14 ≤ x.2.1 + x.2.2) ∨ (x.1 = 1 ∧ 21 ≤ x.2.1 + x.2.2))
      ∧ (∀ x ∈ [((0 : Nat), (13 : Nat)), (13, 0)], x.2 < 16 ∧ x.1 + x.2 < 14) ∧ (∀ x ∈ [((5 : Nat), (15 : Nat)), (20, 0)], x.2 < 16 ∧ x.1 + x.2 < 21)
      ∧ State.reset.mgmt.transfer = .closed
      ∧ (∀ x ∈ [Transfer.loading 0 0 13, .fetching 20 3 0], (transferring x State.reset).mgmt.transfer = x ∧ x ≠ .closed
          ∧ (transferring x (late State.reset)).mgmt.idle.due 100000 = true ∧ (late State.reset).powered = true
          ∧ (late State.reset).up.line = .idle) := by decide +kernel

theorem witness_ChunkIsJudged :
    chunkLengthOk [] = true ∧ chunkLengthOk (List.replicate 14 0) = true ∧ chunkLengthOk (List.replicate 16 0) = true
      ∧ (∀ c ∈ [0, 1, 2, 3], (transferring (.loading 13 c 0) State.reset).mgmt.transfer = .loading 13 c 0
          ∧ (transferring (.fetching 20 c 0) State.reset).mgmt.transfer = .fetching 20 c 0) := by decide +kernel

/-- A buffer with a whole page in it, its transfer at chunk 3. -/
def fullBuffer (p : Nat) (c : Content) (s : State) : State :=
  { s with mgmt := { s.mgmt with transfer := .loading p 3 0, idle := .running 9, buffer := c } }

theorem witness_LoadAndEraseAreJudged :
    deferredPages State.reset = []
      ∧ (∀ p ∈ [0, 2, 10], p ≤ 10 ∧ p ≠ 1 ∧ ¬(p = 0 ∧ 1 ≤ 0)) ∧ State.reset.link = false
      ∧ (let s := { State.reset with link := true }; s.seq.sup.quiet = true ∧ (inState .fire none s).seq.sup.quiet = false ∧ (inState .fire none s).link = true)
      ∧ (∀ p ∈ [2, 9, 10, 11, 13], ∀ c, c = (factoryOf State.reset p).content → c.take 48 ++ (c.drop 48) ++ c.drop 62 = c
          ∧ (c.drop 48).length = 14 ∧ failedTests p (fun q => if q = p then c else willHold State.reset q) = [])
      ∧ failedTests 9 (fun q => if q = 9 then zeroContent else willHold State.reset q) ≠ []
      ∧ (fullBuffer 9 zeroContent State.reset).mgmt.transfer = .loading 9 3 0
      ∧ (∀ c ∈ [factoryIdentity, zeroContent], rangeOk 0 c = (c == factoryIdentity) ∧ c.length = 62)
      ∧ orderOk 0 factoryIdentity = true
      ∧ failedTests 1 (fun q => if q = 1 then factoryMap else if q = 0 then (some factoryIdentity).getD (willHold State.reset 0) else willHold State.reset q) = []
      ∧ failedTests 1 (fun q => if q = 1 then zeroContent.set 0 255 else if q = 0 then (none : Option Content).getD (willHold State.reset 0) else willHold State.reset q) ≠ [] := by
  refine ⟨by decide +kernel, by decide, by decide +kernel, by decide +kernel, ?_, by decide +kernel, by decide +kernel, by decide +kernel,
    by decide +kernel, by decide +kernel, by decide +kernel⟩
  intro p hp c hc
  subst hc
  revert p
  decide +kernel

theorem witness_RestartsWaitForTheirResponse :
    (∀ r ∈ [Restart.softAsked, .fullAsked], (sending r).mgmt.restart = r ∧ (sending r).field.trying = none
      ∧ (sending r).up.trying = some { owner := .utq, frame := response, onLine := true, orphan := false, hold := .stopped }
      ∧ response.kind = .mrs ∧ (sending r).relay.utq = { frame := response, onLine := true, renewed := false } :: [])
      ∧ (∀ s ∈ [sending .softAsked],
          (onPort .field (fun p => { p with line := .stuck, gap := .busy }) s).field.line = .stuck
            ∧ (onPort .field (fun p => { p with line := .receiving, gap := .held }) s).field.gap = .held
            ∧ (following .field s).field.line = .receiving ∧ (following .field s).field.gap = .busy)
      ∧ (∀ x ∈ [(Timer.stopped, false), (.running 9, true)], ∀ s ∈ [cutting .softAsked x.1],
          s.mgmt.restart = .softAsked ∧ s.up.trying.any (fun t => t.owner == .utq && t.frame.kind == .mrs && t.onLine) = true
            ∧ s.relay.utq.length = 1 ∧ s.field.line = .transmitting ∧ s.field.gap = .busy ∧ s.arb.pending = none
            ∧ s.field.trying.any (fun y => y.hold.isRunning == x.2 && y.onLine && y.frame.needsAck && y.owner == .sequencer
                && !y.orphan) = true
            ∧ s.arb.inFlight.map (·.tries) = some 0)
      ∧ (∀ s ∈ [onLine .field .mark (markFrame State.reset 7) (sending .softAsked)],
          s.field.trying.any (fun y => !y.hold.isRunning && y.onLine && !y.frame.needsAck) = true) := by decide +kernel

theorem witness_StoreGrantFollowsTheOrder :
    (∀ x ∈ [some SweepClaim.check, some .repair, none], ∀ c ∈ [MgmtClaim.fetch 20, .erase 13, .write 0 .first, .write 1 .second, .write 9 .single],
      ∀ s ∈ [{ State.reset with store := { State.reset.store with sweepClaim := x, mgmtClaim := some c } }],
        s.powered = true ∧ s.store.op = none ∧ s.store.pendingRec = [] ∧ s.store.sweepClaim = x ∧ s.store.mgmtClaim = some c) := by decide +kernel

theorem witness_StoreCompletions :
    (∀ x ∈ [(6, false), (7, true)], Timer.due (.running 7) x.1 = x.2) ∧
    (∀ p ∈ [0, 14, 20], p < 21 ∧ (onStorePort (.repair p zeroContent) State.reset).store.portTimer.due 0 = true ∧ (onStorePort (.recordWrite p zeroContent true) State.reset).store.op = some (.recordWrite p zeroContent true))
      ∧ (onStorePort (.fetch 20) (transferring (.fetching 20 0 0) State.reset)).mgmt.transfer = .fetching 20 0 0
      ∧ (∀ w ∈ [Wait.rlck, .clrh [18], .nothing], { State.reset.mgmt with wait := w }.wait = w) := by decide +kernel

theorem witness_WriteInstallsOrDefers :
    (∀ p ∈ [0, 10, 11, 13], p < 14 ∧ (onStorePort (.write p zeroContent .single) State.reset).store.op = some (.write p zeroContent .single)
        ∧ (onStorePort (.erase p) State.reset).store.op = some (.erase p)
        ∧ (onStorePort (.erase p) State.reset).store.portTimer.due 0 = true)
      ∧ (inState .fire none warmHouse).seq.sup.quiet = false ∧ State.reset.seq.sup.quiet = true ∧ deferredPages State.reset = []
      ∧ (onStorePort (.write 0 factoryIdentity .first) State.reset).store.op = some (.write 0 factoryIdentity .first)
      ∧ (onStorePort (.write 1 factoryMap .second) State.reset).store.op = some (.write 1 factoryMap .second)
      ∧ (storedOf (setStored 0 (Image.valid factoryIdentity) State.reset) 0).ok = true
      ∧ (∀ p ∈ [2, 5], bindingBytes (fun _ => aloneBindings 0) 0 ≠ bindingBytes (pageOf State.reset) 0 ∧ 2 ≤ p ∧ p ≤ 5)
      ∧ State.reset.seq.sup = .stby ∧ requests State.reset = false
      ∧ (∀ p ∈ [8, 9], zeroContent ≠ pageOf State.reset p) := by
  decide +kernel

/-- The factory page `p` spoiled. -/
def spoiledFactory (p : Fin 14) (s : State) : State :=
  { s with store := { s.store with factory := s.store.factory.set p.val (Image.invalid zeroContent) } }

theorem witness_SweepChecksAndRepairs :
    (late State.reset).store.sweepTimer.due 100000 = true
      ∧ (∀ p ∈ [0, 13], (factoryOf State.reset p).ok = true ∧ (copyOf State.reset p).ok = true)
      ∧ (copyOf State.reset 9).source ≠ .installer ∧ (storedOf (after .repairWriteComplete (onStorePort (.repair 11 zeroContent) zoneHouse)) 11).ok = true
      ∧ (copyOf zoneHouse 11).source = .installer ∧ (storedOf zoneHouse 11).ok = false := by
  decide +kernel

theorem witness_SweepChecksAndRepairs_pages :
    (∀ p ∈ [14, 18, 19, 20], ∀ x ∈ [(true, true), (true, false), (false, true), (false, false)],
        ∀ s ∈ [onStorePort (.check p) (spoiled x.1 x.2 p State.reset)],
          s.store.op = some (.check p) ∧ s.store.portTimer.due s.now = true ∧ (copyOf s p).ok = !x.1 ∧ (storedOf s p).ok = !x.2
            ∧ deferredPages s = [])
      ∧ (∀ x ∈ [(0, onStorePort (.check 0) (spoiledFactory 0 State.reset)), (13, onStorePort (.check 13) (spoiledFactory 13 State.reset))],
          x.2.store.op = some (.check x.1) ∧ x.2.store.portTimer.due x.2.now = true ∧ (factoryOf x.2 x.1).ok = false
            ∧ (copyOf x.2 x.1).ok = true ∧ (copyOf x.2 x.1).source ≠ .installer ∧ deferredPages x.2 = []) := by
  decide +kernel

/-- A reload of page 5 rebinds channel 3, whose marker words alone stand there, and leaves channel 0 as it was; the last
time is kept (R16, R182). -/
theorem test_sweepReload_rebinds :
    ∀ s ∈ [onStorePort (.check 5) (spoiled true false 5 idleHouse)], ∀ t ∈ [after .checkStepComplete s],
      (chan t 3).state = .awaiting ∧ (chan t 3).reading = none ∧ (chan t 3).lastTime = (chan s 3).lastTime
        ∧ (chan s 3).lastTime = some 0 ∧ chan t 0 = chan s 0 := by decide +kernel

theorem witness_SweepChecksAndRepairs_attempt :
    (∀ p ∈ [0, 9, 10, 13],
        ∀ s ∈ [onStorePort (.check p) (spoiled true false p (inState .chek none flaming)),
            onStorePort (.check p) (spoiled true false p (inState .fire none warmHouse))],
          s.store.op = some (.check p) ∧ s.store.portTimer.due s.now = true
            ∧ (factoryOf s p).ok = true ∧ (copyOf s p).ok = false ∧ deferredPages s = [] ∧ 0 < (schedule s).postMin ∧ requests s = true
            ∧ overheated s = false ∧ s.seq.attempt.any (·.outcome.isNone) = true)
      ∧ chekMet (spoiled true false 10 (inState .chek none flaming)) = false
      ∧ requests (spoiled true false 10 (inState .chek none idleHouse)) = false
      ∧ (∀ p ∈ [2, 5, 8, 9], ∀ st ∈ [SupState.cond, .purg],
          ∀ s ∈ [onStorePort (.check p) (spoiled true false p { inState st none warmHouse with now := 9 })],
            s.store.portTimer.due s.now = true ∧ (factoryOf s p).ok = true ∧ (copyOf s p).ok = false ∧ deferredPages s = []
              ∧ s.seq.sup.undecided = true ∧ s.seq.attempt.any (fun a => a.outcome.isNone && a.start != s.now) = true) := by
  decide +kernel

/-- For LampShowsTheLockout as well. -/
theorem witness_HardLinesFollowTheState :
    ∀ s ∈ [State.reset, inState .fire none warmHouse], s.seq.frc = s.seq.sup.fuel ∧ s.seq.lkl = s.seq.sup.lamp
      ∧ s.seq.attempt.isSome = s.seq.sup.inAttempt ∧ s.seq.attempt.all (fun a => a.phase == s.seq.sup) = true := by decide +kernel

/-- A valve-open set waits in FIRE. -/
def openSetWaits : State :=
  let s := inState .fire none (free warmHouse)
  { s with
    seq := { s.seq with current := (setTo true).set }
    arb := { s.arb with pending := some (setTo true) } }

/-- For ValveStaysGuarded as well. -/
theorem witness_NoValveOpenFrameIsGranted :
    ValveGuard openSetWaits ∧ mayTransmit openSetWaits.field = true ∧ (∃ t, exec .arbiterGrant openSetWaits = .next t)
      ∧ (after .arbiterGrant openSetWaits).field.trying.any
          (fun x => x.owner == .sequencer && !x.orphan && (byteAt x.frame.payload 3).testBit 3) = true := by
  have hp : openSetWaits.arb.pending = some (setTo true) ∧ openSetWaits.arb.inFlight = none
      ∧ openSetWaits.field.trying = none ∧ openSetWaits.up.trying = none ∧ openSetWaits.seq.sup.fuel = true := by decide +kernel
  obtain ⟨h1, h2, h3, h4, h5⟩ := hp
  refine ⟨⟨by decide +kernel, fun _ _ _ => h5, ?_, ?_, ?_, ?_⟩, by decide +kernel, ⟨_, rfl⟩, by decide +kernel⟩
  · intro x hx
    rw [h2] at hx
    cases hx
  · intro t ht
    rw [h3] at ht
    cases ht
  · intro t ht
    rw [h3] at ht
    cases ht
  · intro t ht
    rw [h4] at ht
    cases ht

theorem witness_ValveStaysGuarded :
    LateSlot lateRelay ∧ slotLate lateRelay = true ∧ LateSlot openSetWaits ∧ slotLate openSetWaits = false
      ∧ State.reset.seq.current = setOf State.reset ∧ (∃ t, step openSetWaits = .next t) ∧ (∃ t, step lateRelay = .next t) := by
  refine ⟨?_, by decide +kernel, ?_, by decide +kernel, by decide +kernel, ⟨_, rfl⟩, ⟨_, rfl⟩⟩
  · intro _ t ht _
    have h : lateRelay.field.trying = some { owner := .relay, frame := pumpFrame, onLine := true, orphan := false, hold := .stopped } := by
      decide +kernel
    rw [h] at ht
    cases ht
    rfl
  · intro h
    have : slotLate openSetWaits = false := by decide +kernel
    rw [this] at h
    cases h

theorem witness_QueuesKeepTheirForm :
    UtqForm (sending .nothing).relay.utq ∧ FrostForm (frostTry 0).arb.frostQ ∧ PendingForm [14, 15, 16, 17, 18]
      ∧ (∃ t, step (sending .nothing) = .next t) ∧ (∃ t, step (frostTry 0) = .next t) := by
  refine ⟨?_, ?_, ?_, ⟨_, rfl⟩, ⟨_, rfl⟩⟩
  · unfold UtqForm
    decide +kernel
  · unfold FrostForm
    decide +kernel
  · unfold PendingForm
    decide

theorem witness_ReadingsStayClamped :
    (∀ k : Fin 8, ((bindingOf warmHouse (k.castLE (by decide))).any (fun b => b.low ≤ b.high)) = true
      ∧ (chan warmHouse (k.castLE (by decide))).reading.isSome = true) ∧ ClampedChannels State.reset ∧ (∃ t, step State.reset = .next t) := by
  refine ⟨by decide +kernel, ?_, ⟨_, rfl⟩⟩
  intro k
  have h : ∀ k : Fin 14, (chan State.reset k).reading = none := by decide +kernel
  refine ⟨fun _ => h k, fun b _ _ r hr => ?_⟩
  rw [h k] at hr
  cases hr

theorem witness_QuietStatesHaveNoDeferredCopy : QuietInstalled State.reset := by
  intro _
  decide +kernel

/-- For FixedPartIsKept as well. -/
theorem witness_BlocksChangeByTheirCommands :
    resetsAll .stat = false ∧ installsCopy .stat = false ∧ reachesChannels .stat = false ∧ reachesDemand .stat = false
      ∧ reachesCycle .stat = false ∧ reachesRefusal .stat = false ∧ reachesMailbox (.openerSeen .upstream) = false ∧ reachesStorePort .stat = false
      ∧ deferredPages State.reset = [] ∧ (∃ t, exec .stat State.reset = .next t) := by
  refine ⟨rfl, rfl, rfl, rfl, rfl, rfl, rfl, rfl, by decide +kernel, ⟨_, rfl⟩⟩

end Sys2Proof.Tests
end

section
/-! SUPPORT. O17: the frames the part does not take, and the command a valid frame is. -/

namespace Sys2Proof.Machine

variable {s : State}

/-! ### A frame at a port that follows it -/

/-- A frame of a legal header at a port that follows it has its body's effect. -/
theorem react_onFrame_following {id : PortId} {headerOk : Bool} {body : State → State} {t : State} (hp : s.powered = true)
    (hc : canReceive (port s id) = true) (hk : headerOk = true) (hb : body s = t) :
    react (onFrame id headerOk body) s = .next (renewOrder (settle s.seq.sup t)) := by
  subst hk hb
  rw [react_powered hp, onFrame_following s hc]

/-- Where that effect leaves the supervisor state alone, nothing deferred is installed at its end. -/
theorem react_onFrame_sameSup {id : PortId} {headerOk : Bool} {body : State → State} {t : State} (hp : s.powered = true)
    (hc : canReceive (port s id) = true) (hk : headerOk = true) (hb : body s = t) (hs : t.seq.sup = s.seq.sup) :
    react (onFrame id headerOk body) s = .next (renewOrder t) := by
  rw [react_onFrame_following hp hc hk hb, settle_same hs]

/-! ### What the turned-away frames leave -/

/-- NAK-R, Not Managing, at the Upstream Port reaches that port and the Last Refusal record alone (R22, R142). -/
theorem refuseNotManaging_upstream (src : Nat) :
    SendsAck s (refuseNotManaging .upstream src s) .upstream .nakR
      ∧ (refuseNotManaging .upstream src s).relay =
          { s.relay with
            lastRefusal := some { origin := src, dst := ownStation s, code := none, reason := .notManaging } }
      ∧ refuseNotManaging .upstream src s =
          { s with up := (refuseNotManaging .upstream src s).up, relay := (refuseNotManaging .upstream src s).relay } :=
  ⟨sendsAck_complete s .upstream .nakR, rfl, rfl⟩

/-- At the Field Port it restarts the field silence timer as well (R136, R143). -/
theorem refuseNotManaging_field (src : Nat) :
    SendsAck s (refuseNotManaging .field src s) .field .nakR
      ∧ (refuseNotManaging .field src s).relay =
          { s.relay with
            lastRefusal := some { origin := src, dst := ownStation s, code := none, reason := .notManaging } }
      ∧ (refuseNotManaging .field src s).cyc = { s.cyc with silence := .running (s.now + 5000) }
      ∧ refuseNotManaging .field src s =
          { s with
            field := (refuseNotManaging .field src s).field, relay := (refuseNotManaging .field src s).relay
            cyc := (refuseNotManaging .field src s).cyc } :=
  ⟨sendsAck_complete s .field .nakR, rfl, rfl, rfl⟩

/-- A frame between other stations leaves the Upstream Port Idle, or waiting through an ack position of theirs, and
reaches nothing else (R125, R142; log 40). -/
theorem passBy_upstream :
    ((passBy .upstream s).up = { s.up with line := .idle, gap := .running (s.now + 5), dominant := .stopped, answer := none }
        ∨ (passBy .upstream s).up =
            { s.up with
              line := .receiving, gap := .running (s.now + 5 + Config.freeTraffic s.freeIndex false)
              dominant := .stopped, answer := none })
      ∧ passBy .upstream s =
          { s with
            up := (passBy .upstream s).up, order := (passBy .upstream s).order
            freeIndex := (passBy .upstream s).freeIndex } := by
  unfold passBy
  split
  · exact ⟨.inl rfl, rfl⟩
  · exact ⟨.inr rfl, rfl⟩

/-- At the Field Port it restarts the field silence timer as well (R136, R143). -/
theorem passBy_field :
    ((passBy .field s).field =
          { s.field with line := .idle, gap := .running (s.now + 5), dominant := .stopped, answer := none }
        ∨ (passBy .field s).field =
            { s.field with
              line := .receiving, gap := .running (s.now + 5 + Config.freeTraffic s.freeIndex true)
              dominant := .stopped, answer := none })
      ∧ (passBy .field s).cyc = { s.cyc with silence := .running (s.now + 5000) }
      ∧ passBy .field s =
          { s with
            field := (passBy .field s).field, cyc := (passBy .field s).cyc, order := (passBy .field s).order
            freeIndex := (passBy .field s).freeIndex } := by
  unfold passBy
  split
  · exact ⟨.inl rfl, rfl, rfl⟩
  · exact ⟨.inr rfl, rfl, rfl⟩

/-! ### The commands of these frames at a port that follows them -/

section
variable {src : Nat} {payload : List Byte} (hp : s.powered = true) (hc : canReceive s.up = true)
  (hsrc : stationOk src = true)
include hp hc hsrc

/-- A DMD of another station than the managing one is refused, whatever its length (R22). -/
theorem exec_demandFrame_notManaging (hlen : payloadOk payload = true) (hm : src ≠ managingStation s) :
    exec (.demandFrame src payload) s = .next (renewOrder (refuseNotManaging .upstream src s)) :=
  react_onFrame_sameSup (id := .upstream) hp hc (by simp [Instr.wellFormed, hsrc, hlen]) (if_pos hm) rfl

/-- A DMD of the managing station with another length than three is malformed (R23). -/
theorem exec_demandFrame_malformed (hlen : payloadOk payload = true) (hm : src = managingStation s)
    (h3 : payload.length ≠ 3) :
    exec (.demandFrame src payload) s = .next (renewOrder (complete .upstream (some .nakM) s)) :=
  react_onFrame_sameSup (id := .upstream) hp hc (by simp [Instr.wellFormed, hsrc, hlen])
    ((if_neg (fun h => h hm)).trans (if_pos h3)) rfl

/-- An MRQ of another station than the managing one is refused before its payload is judged (R142, R147). -/
theorem exec_mrqNotManaging (hm : src ≠ managingStation s) :
    exec (.mrqNotManaging src) s = .next (renewOrder (refuseNotManaging .upstream src s)) := by
  refine Eq.trans ?_ (react_onFrame_sameSup (id := .upstream) hp hc hsrc rfl rfl)
  simp only [exec, execMrqNotManaging, react_powered hp, if_neg hm, Instr.wellFormed]

end

/-! ### The command a valid frame is (R142, R143) -/

/-- Station 0, the broadcast, has no map entry. -/
theorem segment_broadcast : segment s 0 = .absent := by simp [segment, segmentOf]

variable {f : Frame}

/-- A sample frame is SAMPLE_FRAME on either segment, whatever its destination. -/
theorem rows_of_smp (hk : f.kind = .smp) :
    upstreamRow s f = .sampleFrame .upstream f.dst f.src f.sub f.payload
      ∧ fieldRow s f = .sampleFrame .field f.dst f.src f.sub f.payload := by
  simp [upstreamRow, fieldRow, hk]

/-- A command frame upstream is judged by the map entry of its destination. -/
theorem upstreamRow_of_cmd (hk : f.kind = .cmd) :
    upstreamRow s f = match segment s f.dst with
      | .field => .upstreamCommand f.dst f.src f.payload
      | .own => .ownCommandFrame .upstream
      | .absent => if f.dst = 0 then .broadcastCommand f.src f.payload else .upstreamFrameNoEffect
      | .upstream => .upstreamFrameNoEffect := by
  cases hd : segment s f.dst <;> simp [upstreamRow, hk, hd]

/-- On the field segment a command frame is the part's where the part is its destination. -/
theorem fieldRow_of_cmd (hk : f.kind = .cmd) :
    fieldRow s f = if segment s f.dst = .own then .ownCommandFrame .field else .fieldFrameOther := by
  cases hd : segment s f.dst <;> simp [fieldRow, hk, hd]

/-- A DMD or MRQ to another station has no effect. -/
theorem rows_of_foreign_request (hd : segment s f.dst ≠ .own) (hk : f.kind = .dmd ∨ f.kind = .mrq) :
    upstreamRow s f = .upstreamFrameNoEffect ∧ fieldRow s f = .fieldFrameOther := by
  rcases hk with hk | hk
  · simp [upstreamRow, fieldRow, hk, hd]
  · simp [upstreamRow, fieldRow, hk, hd]

/-- The kinds the part itself sends have no effect on it. -/
theorem rows_of_answer (hk : f.kind = .mrk ∨ f.kind = .mrs ∨ f.kind = .alr ∨ f.kind = .rep) :
    upstreamRow s f = .upstreamFrameNoEffect ∧ fieldRow s f = .fieldFrameOther := by
  rcases hk with hk | hk | hk | hk <;> simp [upstreamRow, fieldRow, hk]

/-- Settles O17: each frame's command is run at its port, and the rows are read off the kind and the map entry. -/
theorem framesTurnedAway : Obligations.FramesTurnedAway := by
  unfold Obligations.FramesTurnedAway
  intro s src payload hp hsrc hlen
  refine ⟨fun hc hm c hcmd => ?_, fun hc => ?_, fun hc hm h3 => ?_, fun hc => ?_, fun hc => ?_, fun hc => ?_, fun hc => ?_,
    fun f => ⟨rows_of_smp, fun hk => ?_, fun hd => ⟨fun hk => ?_, fun hk => ?_⟩, rows_of_foreign_request, rows_of_answer⟩⟩
  · obtain ⟨hack, hrel, hrest⟩ := refuseNotManaging_upstream (s := s) src
    refine ⟨renewOrder (refuseNotManaging .upstream src s), ?_, hack, hrel, congrArg renewOrder hrest⟩
    simp only [List.mem_cons, List.not_mem_nil, or_false] at hcmd
    rcases hcmd with rfl | rfl
    · exact exec_demandFrame_notManaging hp hc hsrc hlen hm
    · exact exec_mrqNotManaging hp hc hsrc hm
  · obtain ⟨hack, hrel, hcyc, hrest⟩ := refuseNotManaging_field (s := s) src
    exact ⟨_, react_onFrame_sameSup hp hc hsrc rfl rfl, hack, hrel, hcyc, congrArg renewOrder hrest⟩
  · exact ⟨_, exec_demandFrame_malformed hp hc hsrc hlen hm h3, sendsAck_complete s .upstream .nakM, rfl⟩
  · exact ⟨_, react_onFrame_sameSup hp hc rfl rfl rfl, sendsAck_complete s .upstream .nakM, rfl⟩
  · exact ⟨_, react_onFrame_sameSup hp hc rfl rfl rfl, sendsAck_complete s .field .nakM, rfl, rfl⟩
  · obtain ⟨hport, hcyc, hrest⟩ := passBy_field (s := s)
    exact ⟨_, react_onFrame_sameSup hp hc rfl rfl (by rw [hrest]), hport, hcyc, congrArg renewOrder hrest⟩
  · obtain ⟨hport, hrest⟩ := passBy_upstream (s := s)
    exact ⟨_, react_onFrame_sameSup hp hc rfl rfl (by rw [hrest]), hport, congrArg renewOrder hrest⟩
  · rw [upstreamRow_of_cmd hk, fieldRow_of_cmd hk]
    refine ⟨fun hd => by simp [hd], fun hd => by simp [hd], fun hd => ?_, fun h0 hd => ?_, fun hd => by simp [hd]⟩
    · simp [hd, segment_broadcast]
    · rcases hd with hd | hd <;> simp [hd, h0]
  · simp [upstreamRow, fieldRow, hk, hd]
  · simp [upstreamRow, fieldRow, hk, hd]

end Sys2Proof.Machine
end

section
/-! SUPPORT. What the Sequencer's events leave alone, and the chains of passages that one event takes. -/

namespace Sys2Proof.Machine

variable {s t : State}

/-! ### What the settings and the channels show -/

section
variable (h : chanPart t = chanPart s)
include h

theorem copyOf_of_chanPart {p : Nat} (hp : p < 14) : copyOf t p = copyOf s p := by
  simp only [chanPart, outside, Prod.mk.injEq] at h
  obtain ⟨⟨_, hset⟩, _⟩ := h
  exact List.map_inj_left.mp hset p (List.mem_range.mpr hp)

theorem pageOf_of_chanPart {p : Nat} (hp : p < 14) : pageOf t p = pageOf s p :=
  congrArg Copy.content (copyOf_of_chanPart h hp)

theorem schedule_of_chanPart : schedule t = schedule s := congrArg decodeSchedule (pageOf_of_chanPart h (by omega))

theorem limits_of_chanPart : limits t = limits s := congrArg decodeLimits (pageOf_of_chanPart h (by omega))

theorem usableF_of_chanPart (k : Fin 14) : usableF t k = usableF s k := by
  simp only [chanPart, Prod.mk.injEq] at h
  obtain ⟨_, hchans⟩ := h
  have hk : chan t k = chan s k := by rw [chan, hchans, chan]
  rw [usableF, hk, usableF]

theorem overheated_of_chanPart : overheated t = overheated s := by
  simp only [overheated, holdsF, usableF_of_chanPart h, limits_of_chanPart h]

theorem chekMet_of_chanPart : chekMet t = chekMet s := by
  simp only [chekMet, holdsF, usableF_of_chanPart h, limits_of_chanPart h]

theorem deferredPages_of_chanPart : deferredPages t = deferredPages s :=
  List.filter_congr (fun _ hp => by rw [copyOf_of_chanPart h (List.mem_range.mp hp)])

end

/-! ### The passages at one event -/

/-- The flame-clear mark is all that CHEK notes before its passages are judged (R43). -/
theorem markFlame_eq_onSeq : ∃ mark, markFlame s = onSeq (fun q => { q with flameClear := mark }) s := by
  unfold markFlame
  split
  · exact ⟨true, rfl⟩
  · exact ⟨s.seq.flameClear, rfl⟩

theorem markFlame_of_not_chek (h : s.seq.sup ≠ .chek) : markFlame s = s := if_neg (fun hm => h hm.1)

/-- No passage reads the mark. -/
theorem passages_markFlame : passages (markFlame s) = passages s := by
  unfold markFlame
  split <;> rfl

theorem seqLoop_of_no_passage (n : Nat) (h : passages s = []) : seqLoop (n + 1) s = markFlame s := by
  simp [seqLoop, passages_markFlame, h, choose, pick]

theorem seqLoop_of_one_passage {p : Passage} (n : Nat) (h : passages s = [p]) :
    seqLoop (n + 1) s = seqLoop n (takePassage p (markFlame s)) := by
  simp [seqLoop, passages_markFlame, h, choose, pick]

/-- An event at which a single passage holds, after which none does, takes that passage alone. -/
theorem seqEvent_of_one_passage {p : Passage} (h : passages s = [p]) (h1 : passages (takePassage p (markFlame s)) = []) :
    seqEvent s = markFlame (takePassage p (markFlame s)) :=
  (seqLoop_of_one_passage 11 h).trans (seqLoop_of_no_passage 10 h1)

/-- What the Sequencer's own changes, the free order and every passage leave alone, an event at the Sequencer leaves
alone. -/
theorem seqEvent_keeps {α : Type} (part : State → α) (honSeq : ∀ f s, part (onSeq f s) = part s)
    (hpick : ∀ n s, part (pick n s).2 = part s) (htake : ∀ p s, part (takePassage p s) = part s) :
    part (seqEvent s) = part s := by
  have hchoose : ∀ (s : State), part (choose (passages (markFlame s)) (markFlame s)).2 = part s := by
    intro s
    obtain ⟨mark, hm⟩ := markFlame_eq_onSeq (s := s)
    exact (hpick _ _).trans (by rw [hm, honSeq])
  have loop : ∀ n s, part (seqLoop n s) = part s := by
    intro n
    induction n with
    | zero => exact fun _ => rfl
    | succ n ih =>
      intro s
      have hs := hchoose s
      unfold seqLoop
      split
      · next p s1 e => rw [e] at hs; exact (ih _).trans ((htake p s1).trans hs)
      · next s1 e => rw [e] at hs; exact hs
  exact loop 12 s

/-! ### What an event at the Sequencer leaves alone -/

theorem demand_endPost : (endPost s).demand = s.demand := by
  unfold endPost
  (repeat' split) <;> simp

theorem up_endPost : (endPost s).up = s.up := by
  unfold endPost
  (repeat' split) <;> simp

theorem demand_takePassage (p : Passage) : (takePassage p s).demand = s.demand := by
  cases p <;> simp [takePassage, demand_endPost]

theorem up_takePassage (p : Passage) : (takePassage p s).up = s.up := by
  cases p <;> simp [takePassage, up_endPost]

/-- No event at the Sequencer reaches the Demand Unit (R29). -/
@[simp] theorem demand_seqEvent : (seqEvent s).demand = s.demand :=
  seqEvent_keeps State.demand (fun _ _ => rfl) (fun n s => demand_pick s n) (fun p _ => demand_takePassage p)

/-- No event at the Sequencer reaches the Upstream Port. -/
@[simp] theorem up_seqEvent : (seqEvent s).up = s.up :=
  seqEvent_keeps State.up (fun _ _ => rfl) (fun n s => up_pick s n) (fun p _ => up_takePassage p)

/-! ### The entry to a state: its timers and the Attempt Record (section 3.5, R40) -/

theorem timersAt_dropValveOpen (st : SupState) : timersAt st (dropValveOpen s) = timersAt st s := by
  unfold dropValveOpen
  (repeat' split) <;> rfl

theorem timers_enterState (st : SupState) : (enterState st s).seq.timers = timersAt st s := by
  simp only [enterState, timers_refreshSet, timers_entryActions, moveTo]
  split
  · exact timersAt_dropValveOpen st
  · rfl

theorem attempt_moveTo (st : SupState) :
    (moveTo st s).seq.attempt = if st.inAttempt then s.seq.attempt.map (phaseInto st s.now) else none := by
  by_cases hd : (s.seq.sup.fuel && !st.fuel) = true
  · simp [moveTo, hd]
  · simp [moveTo, hd]

/-- The entry to CHEK or POST writes nothing into the record but its phase. -/
theorem attempt_enterState_of_chek_or_post {st : SupState} (h : st = .chek ∨ st = .post) :
    (enterState st s).seq.attempt = s.seq.attempt.map (phaseInto st s.now) := by
  rcases h with rfl | rfl <;> simp [enterState, entryActions, attempt_moveTo, SupState.inAttempt]

/-- Outside CHEK to POST there is no record. -/
theorem attempt_enterState_of_not_inAttempt {st : SupState} (h : st.inAttempt = false) :
    (enterState st s).seq.attempt = none := by
  simpa [h] using phase_enterState st s

/-! ### The beginning of an attempt (R43) -/

theorem mem_insertPage (p : Nat) (l : List Nat) : p ∈ insertPage p l := by
  induction l with
  | nil => simp [insertPage]
  | cons q rest ih =>
    unfold insertPage
    split
    · simp
    · split
      · next h => simp [h]
      · simp [ih]

theorem mem_insertPage_of_mem {p q : Nat} {l : List Nat} (h : q ∈ l) : q ∈ insertPage p l := by
  induction l with
  | nil => cases h
  | cons r rest ih =>
    unfold insertPage
    split
    · exact List.mem_cons_of_mem _ h
    · split
      · exact h
      · rcases List.mem_cons.mp h with rfl | h
        · exact List.mem_cons_self
        · exact List.mem_cons_of_mem _ (ih h)

/-- Page 14 shows the same items wherever the store is the same. -/
theorem lockPage_congr (h : t.store = s.store) : lockPage t = lockPage s := by simp [lockPage, pageOf, copyOf, h]

/-- The attempt begins as R43 and R40 give, whatever state it begins in. -/
theorem beginsAttempt_beginAttempt : BeginsAttempt s (beginAttempt s) := by
  have hstore := store_beginAttempt s
  have hnext := lockPage_changeLock s (fun l => { l with nextSeq := (l.nextSeq + 1) % 65536 })
    { lockPage_fits s with next := Nat.mod_lt _ (by decide) }
  refine ⟨sup_enterState _ _, frc_enterState _ _, ?_, ?_, ?_, ?_, ?_⟩
  · exact congrArg PhaseTimers.chekMax (timers_enterState .chek)
  · exact (current_enterState _ _).trans (by simp [calledSet])
  · exact (attempt_enterState_of_chek_or_post (.inl rfl)).trans (by simp [phaseInto, SupState.code, causeNow])
  · rw [lockPage_congr hstore, hnext]
  · rw [hstore]; exact mem_insertPage _ _

/-! ### The end of an attempt (R41, R114, R121) -/

theorem getLsbD_only (e : Event) : e.only.getLsbD e.bit = true := by cases e <;> decide

theorem getLsbD_eventsOf {l : List Event} {e : Event} (h : e ∈ l) : (eventsOf l).getLsbD e.bit = true := by
  have fold : ∀ (l : List Event) (m : EventSet), m.getLsbD e.bit = true ∨ e ∈ l →
      (l.foldl (fun m x => m ||| x.only) m).getLsbD e.bit = true := by
    intro l
    induction l with
    | nil => intro m h; exact h.resolve_right (by simp)
    | cons x l ih =>
      intro m h
      refine ih _ ?_
      rcases h with h | h
      · exact .inl (by simp [h])
      · rcases List.mem_cons.mp h with rfl | h
        · exact .inl (by simp [getLsbD_only])
        · exact .inr h
  exact fold l 0 (.inr h)

/-- Every event of the list is latched; an alert that is offered takes none away (R173, R174). -/
theorem latched_latch {l : List Event} {e : Event} (h : e ∈ l) : latched (latch l s) e = true := by
  have he := getLsbD_eventsOf h
  have hadd : latched (addEvents (eventsOf l) s) e = true := by simp [latched, he]
  have hoffer : ∀ u : State, latched u e = true → latched (offerAlert u) e = true := by
    intro u hu
    simp only [latched] at hu
    unfold offerAlert
    dsimp only
    (repeat' split) <;> simp [latched, hu]
  unfold latch latchSet
  split
  · exact hoffer _ hadd
  · exact hadd

/-- Page 14 keeps the low 16 bits of a sequence number. -/
theorem encodeLock_sequence (l : LockPage) :
    encodeLock { l with sequence := l.sequence.map (· % 65536) } = encodeLock l := by
  cases hq : l.sequence with
  | none => simp [encodeLock, hq]
  | some n =>
    have hhigh : byteOf (n % 65536 / 256) = byteOf (n / 256) := BitVec.eq_of_toNat_eq (by simp; omega)
    have hlow : byteOf (n % 65536) = byteOf n := BitVec.eq_of_toNat_eq (by simp)
    simp [encodeLock, hq, word16, hhigh, hlow]

/-- A lockout decision sets the lockout record (R114). -/
theorem lockPage_lockDecision (r : Reason) (n : Nat) :
    lockPage (lockDecision (.lockout r) n s) =
      { lockPage s with locked := true, reason := some r, sequence := some (n % 65536) } := by
  have h : lockDecision (.lockout r) n s =
      changeLock (fun l => { l with locked := true, reason := some r, sequence := some (n % 65536) }) s :=
    congrArg (fun c => changeRecord 14 c s)
      (encodeLock_sequence { lockPage s with locked := true, reason := some r, sequence := some n }).symm
  rw [h]
  refine lockPage_changeLock s _ { lockPage_fits s with sequence := fun q hq => ?_ }
  cases hq
  exact Nat.mod_lt _ (by decide)

theorem pageOf_lockDecision_ne {p : Nat} (set : AttemptEnd) (n : Nat) (h : p ≠ 14) :
    pageOf (lockDecision set n s) p = pageOf s p := by
  unfold lockDecision
  split
  · exact congrArg Copy.content (copyOf_changeLock_ne s _ h)
  · rfl

theorem mem_pendingRec_lockDecision {p : Nat} (set : AttemptEnd) (n : Nat) (h : p ∈ s.store.pendingRec) :
    p ∈ (lockDecision set n s).store.pendingRec := by
  unfold lockDecision
  split
  · exact mem_insertPage_of_mem h
  · exact h

theorem slotPage_summarySlot_bounds : 14 < slotPage (summarySlot s) ∧ slotPage (summarySlot s) < 19 := by
  have := summarySlot_lt s
  unfold slotPage
  omega

/-- The summary stands in its slot (R121). -/
theorem pageOf_placeSummary (x : Summary) :
    pageOf (placeSummary x s) (slotPage (summarySlot s)) =
      splice (pageOf s (slotPage (summarySlot s))) (slotOffset (summarySlot s)) (encodeSummary x) := by
  have hp := slotPage_summarySlot_bounds (s := s)
  exact congrArg Copy.content (copyOf_setCopy_self s _ (by omega))

/-- The state at the decision of an outcome, before the Sequencer moves: the outcome set, the summary placed, the
lockout record set, the events latched (R41). -/
def outcomeSet (a : Attempt) (o : AttemptEnd) (s : State) : State :=
  latch (eventsAfter o (promoted s o))
    (lockDecision (promoted s o) a.sequence
      (placeSummary (summaryOf a (promoted s o) s.now)
        (onSeq
          (fun q =>
            { q with failCount := countAfter s (promoted s o), attempt := some { a with outcome := some (promoted s o) } })
          s)))

section
variable {a : Attempt} (ha : s.seq.attempt = some a) (ho : a.outcome = none) (hu : s.seq.sup.undecided = true)
include ha ho hu

/-- An outcome is set where none is set yet, and the Sequencer moves as R44 gives. -/
theorem decide_eq_enterState (o : AttemptEnd) :
    decide o s = enterState (nextAfter s.seq.sup (promoted s o)) (outcomeSet a o s) := by
  simp [decide, outcomeSet, ha, ho, hu]

end

/-- No outcome leads to a state that may fire. -/
theorem fuel_nextAfter (sup : SupState) (o : AttemptEnd) : (nextAfter sup o).fuel = false := by
  unfold nextAfter
  (repeat' split) <;> rfl

theorem seq_outcomeSet (a : Attempt) (o : AttemptEnd) :
    (outcomeSet a o s).seq =
      { s.seq with
        failCount := countAfter s (promoted s o), attempt := some { a with outcome := some (promoted s o) } } := by
  simp [outcomeSet]

theorem store_outcomeSet (a : Attempt) (o : AttemptEnd) :
    (outcomeSet a o s).store =
      (lockDecision (promoted s o) a.sequence (placeSummary (summaryOf a (promoted s o) s.now) s)).store := by
  simp only [outcomeSet, store_latch]
  unfold lockDecision
  split <;> rfl

/-- What the decision of an outcome leaves (R41, R44, R60, R114, R121). -/
theorem decided_decide {a : Attempt} (ha : s.seq.attempt = some a) (ho : a.outcome = none)
    (hu : s.seq.sup.undecided = true) (o : AttemptEnd) : Decided s a o (decide o s) := by
  have hslot := slotPage_summarySlot_bounds (s := s)
  rw [decide_eq_enterState ha ho hu]
  have hstore := (store_enterState (outcomeSet a o s) (nextAfter s.seq.sup (promoted s o))).trans (store_outcomeSet a o)
  refine ⟨sup_enterState _ _, (frc_enterState _ _).trans (fuel_nextAfter _ _), ?_, fun hpost => ?_, fun e he => ?_, ?_, ?_,
    fun r hr => ?_⟩
  · rw [failCount_enterState, seq_outcomeSet]
  · rw [sup_enterState] at hpost
    rw [hpost, attempt_enterState_of_chek_or_post (.inr rfl), seq_outcomeSet]
    exact ⟨_, rfl, rfl, rfl⟩
  · have h : latched (outcomeSet a o s) e = true := latched_latch he
    simpa [latched] using h
  · rw [pageOf_congr (congrArg Store.copies hstore), pageOf_lockDecision_ne _ _ (by omega), pageOf_placeSummary]
  · rw [hstore]
    exact mem_pendingRec_lockDecision _ _ (mem_insertPage _ _)
  · rw [lockPage_congr hstore, hstore, hr, lockPage_lockDecision]
    exact ⟨rfl, rfl, rfl, mem_insertPage _ _⟩

/-- What a decision is judged by: the state, the failure count, the store and the time it is taken at. -/
theorem decided_congr {u : State} {a : Attempt} {o : AttemptEnd} (hsup : u.seq.sup = s.seq.sup)
    (hcount : u.seq.failCount = s.seq.failCount) (hstore : u.store = s.store) (hnow : u.now = s.now) :
    Decided u a o t ↔ Decided s a o t := by
  have hpage : pageOf u = pageOf s := funext (pageOf_congr (congrArg Store.copies hstore))
  have hslot : summarySlot u = summarySlot s := by simp only [summarySlot, occupiedSlots, lockPage, hpage]
  have hsched : schedule u = schedule s := congrArg decodeSchedule (congrFun hpage 8)
  have hset : promoted u o = promoted s o := by unfold promoted; rw [hcount, hsched]
  have hafter : countAfter u (promoted s o) = countAfter s (promoted s o) := by simp only [countAfter, hcount]
  simp only [Decided, hset, hafter, hsup, hslot, hpage, hnow]

/-! ### Events that take one passage -/

/-- The decision does not reach the settings pages. -/
theorem pageOf_outcomeSet {p : Nat} (a : Attempt) (o : AttemptEnd) (hp : p < 14) :
    pageOf (outcomeSet a o s) p = pageOf s p := by
  have hslot := slotPage_summarySlot_bounds (s := s)
  rw [pageOf_congr (congrArg Store.copies (store_outcomeSet a o)), pageOf_lockDecision_ne _ _ (by omega)]
  exact congrArg Copy.content (copyOf_changeRecord_ne s _ (by omega))

/-- CHEK stays with a request, a cool boiler and its conditions not met (R43). -/
theorem passages_chek_eq_nil (hsup : s.seq.sup = .chek) (hr : requests s = true) (ho : overheated s = false)
    (hc : chekMet s = false) : passages s = [] := by simp [passages, passageIf, hsup, hr, ho, hc]

/-- STBY passes on to CHEK at a request, and no further where R43 does not hold (R42). -/
theorem seqEvent_begins (hsup : s.seq.sup = .stby) (hr : requests s = true) (ho : overheated s = false)
    (hc : chekMet s = false) : seqEvent s = markFlame (beginAttempt s) := by
  have hmark : markFlame s = s := markFlame_of_not_chek (by simp [hsup])
  have hpart : chanPart (beginAttempt s) = chanPart s := beginAttempt_closed (chanPart_events _) rfl
  have hreq : requests (beginAttempt s) = true := by simpa [requests] using hr
  have hnone : passages (beginAttempt s) = [] :=
    passages_chek_eq_nil (sup_enterState _ _) hreq ((overheated_of_chanPart hpart).trans ho)
      ((chekMet_of_chanPart hpart).trans hc)
  have h := seqEvent_of_one_passage (s := s) (p := .begin) (by simp [passages, passageIf, hsup, hr]) (by rwa [hmark])
  rwa [hmark] at h

/-- With no request, and nothing else that ends the attempt, a Normal Stop alone is open (R51). -/
theorem passages_of_undisturbed (hu : s.seq.sup.undecided = true) (hund : Undisturbed s) (hr : requests s = false)
    (ho : overheated s = false) (hw : isUsable s cWater = true) : passages s = [.decide .normalStop] := by
  unfold Undisturbed at hund
  cases hsup : s.seq.sup <;> simp only [hsup, SupState.undecided, Bool.false_eq_true] at hu hund
  all_goals simp [passages, passageIf, hsup, hr, ho, hw, hund]

/-- Placing a set changes nothing a passage reads. -/
theorem undisturbed_refreshSet : Undisturbed (refreshSet s) ↔ Undisturbed s := by
  unfold refreshSet
  split <;> rfl

section
variable {a : Attempt} (ha : s.seq.attempt = some a) (ho : a.outcome = none) (hu : s.seq.sup.undecided = true)
include ha ho hu

/-- A Normal Stop leads to STBY from CHEK and COND, to POST from the other states (R44). -/
theorem sup_decide_normalStop :
    (decide .normalStop s).seq.sup = if s.seq.sup = .chek ∨ s.seq.sup = .cond then .stby else .post := by
  rw [decide_eq_enterState ha ho hu, sup_enterState]
  rfl

/-- After a Normal Stop nothing passes on without a request, where POST has a minimum to wait for (R42, R56; log 16). -/
theorem passages_decide_normalStop (hr : requests s = false) (hpost : 0 < (schedule s).postMin) :
    passages (decide .normalStop s) = [] := by
  have hreq : requests (decide .normalStop s) = false := by simpa [requests] using hr
  have hsup := sup_decide_normalStop ha ho hu
  split at hsup
  · simp [passages, passageIf, hsup, hreq]
  · have hmin : (decide .normalStop s).seq.timers.postMin ≠ .expired := by
      have hnext : nextAfter s.seq.sup (promoted s .normalStop) = .post := by
        rw [← hsup, decide_eq_enterState ha ho hu, sup_enterState]
      have hsched : schedule (outcomeSet a .normalStop s) = schedule s :=
        congrArg decodeSchedule (pageOf_outcomeSet a _ (by omega))
      rw [decide_eq_enterState ha ho hu, hnext, timers_enterState]
      simp [timersAt, hsched, startRemembered, startSec, startMs, Nat.pos_iff_ne_zero.mp hpost]
    simp [passages, passageIf, hsup, postMet, hmin]

/-- The last request gone, and nothing else that ends it, an undecided attempt ends as Normal Stop, and the Sequencer
rests in the state it leads to (R51). -/
theorem seqEvent_stops (hund : Undisturbed s) (hr : requests s = false) (hhot : overheated s = false)
    (hw : isUsable s cWater = true) (hpost : 0 < (schedule s).postMin) :
    seqEvent s = decide .normalStop (markFlame s) := by
  obtain ⟨mark, hm⟩ := markFlame_eq_onSeq (s := s)
  have hnone := passages_decide_normalStop (s := onSeq (fun q => { q with flameClear := mark }) s) ha ho hu hr hpost
  have hsup := sup_decide_normalStop (s := onSeq (fun q => { q with flameClear := mark }) s) ha ho hu
  rw [← hm] at hnone hsup
  refine (seqEvent_of_one_passage (passages_of_undisturbed hu hund hr hhot hw) hnone).trans (markFlame_of_not_chek ?_)
  show (decide .normalStop (markFlame s)).seq.sup ≠ .chek
  rw [hsup]
  split <;> simp

/-- So the attempt is decided, and from CHEK and COND its record is gone. -/
theorem decided_seqEvent (hund : Undisturbed s) (hr : requests s = false) (hhot : overheated s = false)
    (hw : isUsable s cWater = true) (hpost : 0 < (schedule s).postMin) :
    Decided s a .normalStop (seqEvent s)
      ∧ (s.seq.sup = .chek ∨ s.seq.sup = .cond → (seqEvent s).seq.attempt = none) := by
  obtain ⟨mark, hm⟩ := markFlame_eq_onSeq (s := s)
  rw [seqEvent_stops ha ho hu hund hr hhot hw hpost, hm]
  refine ⟨decided_decide (s := onSeq (fun q => { q with flameClear := mark }) s) ha ho hu .normalStop, fun hsup => ?_⟩
  rw [decide_eq_enterState (s := onSeq (fun q => { q with flameClear := mark }) s) ha ho hu]
  refine attempt_enterState_of_not_inAttempt (congrArg SupState.inAttempt (?_ : _ = SupState.stby))
  exact if_pos hsup

/-- The same where a set is placed before the request set is read (R35). -/
theorem decided_seqEvent_refreshSet (hund : Undisturbed s) (hr : requests s = false) (hhot : overheated s = false)
    (hw : isUsable s cWater = true) (hpost : 0 < (schedule s).postMin) :
    Decided s a .normalStop (seqEvent (refreshSet s))
      ∧ (s.seq.sup = .chek ∨ s.seq.sup = .cond → (seqEvent (refreshSet s)).seq.attempt = none) := by
  have hpart : chanPart (refreshSet s) = chanPart s := (chanPart_events _).refresh s rfl
  have h := decided_seqEvent (s := refreshSet s) (by simpa using ha) ho (by simpa using hu)
    (undisturbed_refreshSet.mpr hund) (by simpa [requests] using hr) ((overheated_of_chanPart hpart).trans hhot)
    (by rwa [isUsable, usableF_of_chanPart hpart]) (by rwa [schedule_of_chanPart hpart])
  rwa [decided_congr (s := s) (by simp) (by simp) (by simp) (by simp), sup_refreshSet] at h

end

end Sys2Proof.Machine
end

section
/-! SUPPORT. O16: an accepted DMD at the Demand Unit, and what the Sequencer makes of the call. -/

namespace Sys2Proof.Machine

variable {s : State} {payload : List Byte}

/-! ### The answer (R23) -/

theorem clampInt_eq_self_iff {lo hi x : Int} : clampInt lo hi x = x ↔ lo ≤ x ∧ x ≤ hi := by
  unfold clampInt
  (repeat' split) <;> omega

theorem saturate_eq_self_iff {top n : Nat} : saturate top n = n ↔ n ≤ top := by
  unfold saturate
  split <;> omega

/-- ACK-A tells that a clamp changed a value. -/
theorem demandAnswer_eq : demandAnswer s payload =
    if byteAt payload 0 ≤ 100 ∧ (limits s).targetMin ≤ s16At payload 1 ∧ s16At payload 1 ≤ (limits s).targetMax
    then .ack else .ackA :=
  ite_congr (propext (and_congr saturate_eq_self_iff clampInt_eq_self_iff)) (fun _ => rfl) (fun _ => rfl)

/-! ### The heat call and the rate (R26, R31) -/

/-- The heat call of a Live record, row by row. -/
theorem heatNext_of_live {level : Nat} {target : Int} (hs : s.demand.state = .live) (hl : s.demand.level = some level)
    (ht : s.demand.target = some target) : heatNext s =
      if level = 0 then false
      else match usableF s cWater with
        | none => false
        | some f =>
          if target ≤ f then false
          else if f ≤ target - (limits s).differential then true
          else s.demand.heatCall := by
  cases hw : usableF s cWater <;> simp [heatNext, effectiveLevel, hs, hl, ht, hw]

theorem acceptedLevel_eq_zero_iff : acceptedLevel payload = 0 ↔ byteAt payload 0 = 0 := by
  unfold acceptedLevel requestedLevel saturate
  split <;> omega

/-- An accepted DMD at its port and at the Demand Unit, the heat call and the rate evaluated, before the Sequencer reads
them (R23, R26, R31). -/
def demandTaken (payload : List Byte) (s : State) : State :=
  setRate (setHeat (acceptDemand payload (complete .upstream (some (demandAnswer s payload)) s)))

theorem heatCall_demandTaken : (demandTaken payload s).demand.heatCall =
    if byteAt payload 0 = 0 then false
    else match usableF s cWater with
      | none => false
      | some f =>
        if acceptedTarget s payload ≤ f then false
        else if f ≤ acceptedTarget s payload - (limits s).differential then true
        else s.demand.heatCall :=
  (heatNext_of_live (s := acceptDemand payload (complete .upstream (some (demandAnswer s payload)) s)) rfl rfl rfl).trans
    (ite_congr (propext acceptedLevel_eq_zero_iff) (fun _ => rfl) (fun _ => rfl))

theorem rate_demandTaken : (demandTaken payload s).demand.rate =
    clampNat (schedule s).lowFire (schedule s).highFire
      (if (demandTaken payload s).demand.heatCall then acceptedLevel payload else (schedule s).lowFire) := rfl

/-- Nothing but the request for heat has changed for the Sequencer. -/
theorem requests_demandTaken (h1 : s.frost.boilerCall = false) (h2 : s.frost.zoneCall = false) :
    requests (demandTaken payload s) = (demandTaken payload s).demand.heatCall := by
  have h1' : (demandTaken payload s).frost.boilerCall = false := h1
  have h2' : (demandTaken payload s).frost.zoneCall = false := h2
  simp [requests, h1', h2']

/-! ### The command -/

/-- The Sequencer reads the request set where the call has changed (R29), in FIRE after the set for the new rate is
placed (R35). -/
theorem afterDemand_of_call_changed {before : Demand} (h : s.demand.heatCall ≠ before.heatCall) :
    afterDemand before s = seqEvent (if s.seq.sup = .fire then refreshSet s else s) := if_neg (fun hb => h hb.1)

theorem demand_afterDemand (before : Demand) : (afterDemand before s).demand = s.demand := by
  unfold afterDemand
  (repeat' split) <;> simp

theorem up_afterDemand (before : Demand) : (afterDemand before s).up = s.up := by
  unfold afterDemand
  (repeat' split) <;> simp

/-- A DMD of three bytes from the managing station is accepted (R22, R23). -/
theorem exec_demandFrame_accepted {src : Nat} (hp : s.powered = true) (hc : canReceive s.up = true)
    (hsrc : stationOk src = true) (hm : src = managingStation s) (h3 : payload.length = 3) (hd : deferredPages s = []) :
    exec (.demandFrame src payload) s = .next (renewOrder (afterDemand s.demand (demandTaken payload s))) := by
  have hpart : chanPart (afterDemand s.demand (demandTaken payload s)) = chanPart s :=
    afterDemand_closed (chanPart_events _) _ rfl
  refine (react_onFrame_following (id := .upstream) (t := afterDemand s.demand (demandTaken payload s)) hp hc ?_ ?_).trans ?_
  · simp [Instr.wellFormed, hsrc, payloadOk, h3]
  · exact (if_neg (fun h => h hm)).trans (if_neg (fun h => h h3))
  · rw [settle_none ((deferredPages_of_chanPart hpart).trans hd)]

/-! ### What the Sequencer makes of it -/

/-- In STBY a first request begins an attempt (R42, R43). -/
theorem beginsAttempt_afterDemand (hsup : s.seq.sup = .stby) (hr : requests s = false)
    (hcall : (demandTaken payload s).demand.heatCall = true) (hhot : overheated s = false) (hchek : chekMet s = false) :
    BeginsAttempt s (afterDemand s.demand (demandTaken payload s)) := by
  have hbefore : s.demand.heatCall = false := by
    simp only [requests, Bool.or_eq_false_iff] at hr
    obtain ⟨⟨hheat, _⟩, _⟩ := hr
    exact hheat
  have hsup' : (demandTaken payload s).seq.sup = .stby := hsup
  have hreq : requests (demandTaken payload s) = true := by simp [requests, hcall]
  rw [afterDemand_of_call_changed (by rw [hcall, hbefore]; decide), if_neg (by rw [hsup']; decide),
    seqEvent_begins hsup' hreq hhot hchek]
  have hbegin : BeginsAttempt s (beginAttempt (demandTaken payload s)) :=
    beginsAttempt_beginAttempt (s := demandTaken payload s)
  unfold markFlame
  split
  · exact hbegin
  · exact hbegin

/-- Where the call clears as the last request, an undecided attempt ends as Normal Stop (R51). -/
theorem decided_afterDemand {a : Attempt} (hbefore : s.demand.heatCall = true) (h1 : s.frost.boilerCall = false)
    (h2 : s.frost.zoneCall = false) (hcall : (demandTaken payload s).demand.heatCall = false)
    (hhot : overheated s = false) (hw : isUsable s cWater = true) (hund : Undisturbed s)
    (hpost : 0 < (schedule s).postMin) (ha : s.seq.attempt = some a) (ho : a.outcome = none)
    (hu : s.seq.sup.undecided = true) :
    Decided s a .normalStop (afterDemand s.demand (demandTaken payload s))
      ∧ (s.seq.sup = .chek ∨ s.seq.sup = .cond →
          (afterDemand s.demand (demandTaken payload s)).seq.attempt = none) := by
  have hreq : requests (demandTaken payload s) = false := (requests_demandTaken h1 h2).trans hcall
  rw [afterDemand_of_call_changed (by rw [hcall, hbefore]; decide)]
  split
  · exact decided_seqEvent_refreshSet (s := demandTaken payload s) ha ho hu hund hreq hhot hw hpost
  · exact decided_seqEvent (s := demandTaken payload s) ha ho hu hund hreq hhot hw hpost

/-- Settles O16: the Demand Unit's record, call and rate are those of `demandTaken`, which no passage of the Sequencer
changes; the Sequencer takes one passage, or none. -/
theorem demandFrameAccepted : Obligations.DemandFrameAccepted := by
  unfold Obligations.DemandFrameAccepted
  intro s src payload hp hc hsrc hm h3 hd
  have hdemand : (renewOrder (afterDemand s.demand (demandTaken payload s))).demand = (demandTaken payload s).demand :=
    demand_afterDemand _
  have hup : (renewOrder (afterDemand s.demand (demandTaken payload s))).up = (demandTaken payload s).up := up_afterDemand _
  refine ⟨_, exec_demandFrame_accepted hp hc hsrc hm h3 hd, ?_⟩
  rw [hdemand, hup]
  refine ⟨rfl, rfl, rfl, rfl, heatCall_demandTaken, rate_demandTaken, congrArg some demandAnswer_eq,
    beginsAttempt_afterDemand, fun hbefore h1 h2 hcall hhot hw hund hpost _ =>
      decided_afterDemand hbefore h1 h2 hcall hhot hw hund hpost⟩

end Sys2Proof.Machine
end

section
/-! SUPPORT. O23: the integer nearest to a quotient, and a curve as the interpolation of one pair of its points. -/

namespace Sys2Proof.Machine

/-! ### Rounding to the nearest integer (00_scope.md "Rounding") -/

/-- The rounded quotient lies at most half a step from the exact one; a half is rounded away from zero. -/
theorem roundDiv_nearest (n : Int) {k : Nat} (hk : 0 < k) :
    2 * (roundDiv n k * k - n).natAbs ≤ k
      ∧ (2 * (roundDiv n k * k - n).natAbs = k → n.natAbs < (roundDiv n k * k).natAbs) := by
  unfold roundDiv
  dsimp only
  have hle : (2 * n.natAbs + k) / (2 * k) * (2 * k) ≤ 2 * n.natAbs + k := Nat.div_mul_le_self _ _
  have hlt : 2 * n.natAbs + k < (2 * n.natAbs + k) / (2 * k) * (2 * k) + 2 * k := Nat.lt_div_mul_add (by omega)
  generalize (2 * n.natAbs + k) / (2 * k) = q at hle hlt ⊢
  rw [Nat.mul_left_comm] at hle hlt
  split
  · rw [Int.neg_mul, ← Int.natCast_mul]
    omega
  · rw [← Int.natCast_mul]
    omega

/-- Rounding carries a quotient past no integer (R67). -/
theorem roundDiv_mem_Icc {n a b : Int} {k : Nat} (hk : 0 < k) (ha : a * k ≤ n) (hb : n ≤ b * k) :
    a ≤ roundDiv n k ∧ roundDiv n k ≤ b := by
  obtain ⟨hnear, _⟩ := roundDiv_nearest n hk
  have hk0 : (0 : Int) ≤ k := Int.natCast_nonneg k
  have hlow : a * k < (roundDiv n k + 1) * k := by rw [Int.add_mul]; omega
  have hhigh : roundDiv n k * k < (b + 1) * k := by rw [Int.add_mul]; omega
  exact ⟨Int.lt_add_one_iff.mp (Int.lt_of_mul_lt_mul_right hlow hk0),
    Int.lt_add_one_iff.mp (Int.lt_of_mul_lt_mul_right hhigh hk0)⟩

/-! ### One pair of neighbours (R66, R67) -/

/-- The interpolation stays between two bounds of its points' values: the product of distance and rise lies between
those of the span with the bounds' own rises. -/
theorem interpolate_mem_Icc {p q : Int × Int} {x lo hi : Int} (hpx : p.1 ≤ x) (hxq : x < q.1)
    (hp : lo ≤ p.2 ∧ p.2 ≤ hi) (hq : lo ≤ q.2 ∧ q.2 ≤ hi) :
    lo ≤ interpolate p q x ∧ interpolate p q x ≤ hi := by
  have hspan : ((q.1 - p.1).toNat : Int) = q.1 - p.1 := Int.toNat_of_nonneg (by omega)
  have hlow : (lo - p.2) * (q.1 - p.1) ≤ (x - p.1) * (q.2 - p.2) :=
    calc (lo - p.2) * (q.1 - p.1)
        ≤ (lo - p.2) * (x - p.1) := Int.mul_le_mul_of_nonpos_left (by omega) (by omega)
      _ = (x - p.1) * (lo - p.2) := Int.mul_comm _ _
      _ ≤ (x - p.1) * (q.2 - p.2) := Int.mul_le_mul_of_nonneg_left (by omega) (by omega)
  have hhigh : (x - p.1) * (q.2 - p.2) ≤ (hi - p.2) * (q.1 - p.1) :=
    calc (x - p.1) * (q.2 - p.2)
        ≤ (x - p.1) * (hi - p.2) := Int.mul_le_mul_of_nonneg_left (by omega) (by omega)
      _ = (hi - p.2) * (x - p.1) := Int.mul_comm _ _
      _ ≤ (hi - p.2) * (q.1 - p.1) := Int.mul_le_mul_of_nonneg_left (by omega) (by omega)
  have hround := roundDiv_mem_Icc (k := (q.1 - p.1).toNat) (by omega) (hspan ▸ hlow) (hspan ▸ hhigh)
  unfold interpolate
  omega

/-! ### The curve (R66) -/

variable {p q : Int × Int} {pre rest post : List (Int × Int)} {x lo hi : Int}

theorem evalCurve_singleton : evalCurve [p] x = p.2 := rfl

/-- A curve of two points or more by the place of the input: at or below the first, before the second, beyond. -/
theorem evalCurve_cons_cons : evalCurve (p :: q :: rest) x =
    if x ≤ p.1 then p.2 else if x < q.1 then interpolate p q x else evalCurve (q :: rest) x := rfl

/-- The first point's value at or below its x. -/
theorem evalCurve_of_le_first (h : x ≤ p.1) : evalCurve (p :: rest) x = p.2 := by
  cases rest with
  | nil => rfl
  | cons q rest => rw [evalCurve_cons_cons, if_pos h]

theorem interpolate_first (hpq : p.1 < q.1) : interpolate p q p.1 = p.2 := by
  have hzero := roundDiv_mem_Icc (n := 0) (a := 0) (b := 0) (k := (q.1 - p.1).toNat) (by omega) (by simp) (by simp)
  rw [interpolate, Int.sub_self, Int.zero_mul]
  omega

/-- The interpolation on the first pair where the input lies in it. -/
theorem evalCurve_of_mem_first_pair (hpx : p.1 ≤ x) (hxq : x < q.1) :
    evalCurve (p :: q :: rest) x = interpolate p q x := by
  rcases Int.le_iff_eq_or_lt.mp hpx with rfl | hlt
  · rw [evalCurve_of_le_first (Int.le_refl _), interpolate_first hxq]
  · rw [evalCurve_cons_cons, if_neg (Int.not_le.mpr hlt), if_pos hxq]

/-- From its second point on a curve is the curve without its first. -/
theorem evalCurve_of_second_le (hpq : p.1 < q.1) (hqx : q.1 ≤ x) :
    evalCurve (p :: q :: rest) x = evalCurve (q :: rest) x := by
  rw [evalCurve_cons_cons, if_neg (by omega), if_neg (by omega)]

/-- From any of its points on, a curve is the curve that begins at that point. -/
theorem evalCurve_append_of_le (hasc : (pre ++ p :: post).Pairwise (fun q r => q.1 < r.1)) (hpx : p.1 ≤ x) :
    evalCurve (pre ++ p :: post) x = evalCurve (p :: post) x := by
  induction pre with
  | nil => rfl
  | cons r pre ih =>
    obtain ⟨hr, htail⟩ := List.pairwise_cons.mp hasc
    rw [← ih htail]
    cases pre with
    | nil => exact evalCurve_of_second_le (hr p (by simp)) hpx
    | cons q pre =>
      obtain ⟨hq, _⟩ := List.pairwise_cons.mp htail
      have hqp : q.1 < p.1 := hq p (by simp)
      exact evalCurve_of_second_le (hr q (by simp)) (by omega)

/-- The last point's value at or above its x. -/
theorem evalCurve_of_last_le {points : List (Int × Int)} (hne : points ≠ [])
    (hasc : points.Pairwise (fun q r => q.1 < r.1)) (h : (points.getLast hne).1 ≤ x) :
    evalCurve points x = (points.getLast hne).2 := by
  have hsplit := List.dropLast_concat_getLast hne
  calc evalCurve points x
      = evalCurve (points.dropLast ++ [points.getLast hne]) x := by rw [hsplit]
    _ = evalCurve [points.getLast hne] x := evalCurve_append_of_le (by rwa [hsplit]) h
    _ = (points.getLast hne).2 := evalCurve_singleton

/-- A curve passes through each of its points. -/
theorem evalCurve_of_mem {points : List (Int × Int)} (hasc : points.Pairwise (fun q r => q.1 < r.1))
    (hp : p ∈ points) : evalCurve points p.1 = p.2 := by
  obtain ⟨pre, post, rfl⟩ := List.append_of_mem hp
  rw [evalCurve_append_of_le hasc (Int.le_refl _), evalCurve_of_le_first (Int.le_refl _)]

/-- Between two neighbours a curve is the interpolation on that pair. -/
theorem evalCurve_of_mem_pair (hasc : (pre ++ p :: q :: post).Pairwise (fun q r => q.1 < r.1))
    (hpx : p.1 ≤ x) (hxq : x < q.1) : evalCurve (pre ++ p :: q :: post) x = interpolate p q x := by
  rw [evalCurve_append_of_le hasc hpx, evalCurve_of_mem_first_pair hpx hxq]

/-- A curve stays between two bounds of its points' values, in whatever order their x stand (R67). -/
theorem evalCurve_mem_Icc (hall : ∀ q ∈ p :: rest, lo ≤ q.2 ∧ q.2 ≤ hi) :
    lo ≤ evalCurve (p :: rest) x ∧ evalCurve (p :: rest) x ≤ hi := by
  induction rest generalizing p with
  | nil => exact hall p (by simp)
  | cons q rest ih =>
    obtain ⟨hp, htail⟩ := List.forall_mem_cons.mp hall
    obtain ⟨hq, _⟩ := List.forall_mem_cons.mp htail
    rw [evalCurve_cons_cons]
    split
    · exact hp
    · split
      · exact interpolate_mem_Icc (by omega) (by omega) hp hq
      · exact ih htail

/-- Settles O23: each input lies outside the points or in one pair of neighbours, and the curve is evaluated there
alone. -/
theorem curveHeldFlatAndBetweenItsPoints : Obligations.CurveHeldFlatAndBetweenItsPoints := by
  unfold Obligations.CurveHeldFlatAndBetweenItsPoints
  intro first rest hasc
  refine ⟨fun x h => evalCurve_of_le_first h, fun x h => evalCurve_of_last_le _ hasc h,
    fun p hp => evalCurve_of_mem hasc hp, fun x lo hi hall => evalCurve_mem_Icc hall, ?_⟩
  intro pre p q post x hsplit hpx hxq
  have hspan : ((q.1 - p.1).toNat : Int) = q.1 - p.1 := Int.toNat_of_nonneg (by omega)
  have hnear := roundDiv_nearest ((x - p.1) * (q.2 - p.2)) (k := (q.1 - p.1).toNat) (by omega)
  have habs : (q.1 - p.1).natAbs = (q.1 - p.1).toNat := by omega
  rw [hspan] at hnear
  refine ⟨_, hsplit ▸ evalCurve_of_mem_pair (hsplit ▸ hasc) hpx hxq, ?_⟩
  rw [habs]
  exact hnear

end Sys2Proof.Machine
end
